-- ==== Sys2Proof/Word.lean ====
section
/-!
DEFINITION. The word types of the CHIP-8 core (spec/00_scope.md R4, R6, R7): every value is unsigned.
-/

namespace Sys2Proof

/-- A general register, a timer, a byte of memory, the immediate NN: 8 bits (R4). -/
abbrev Byte := BitVec 8

/-- An instruction word, `I`, `pc`, a stack slot: 16 bits (R4, R6). -/
abbrev Word := BitVec 16

/-- The immediate NNN: 12 bits (R46). -/
abbrev Addr12 := BitVec 12

/-- The number of a general register, V0 to VF (R11). -/
abbrev Reg := Fin 16

/-- The immediate N of DXYN, a row count 0 to 15 (R46, R48). -/
abbrev RowCount := Fin 16

/-- The number of a key, 0x0 to 0xF (R19). -/
abbrev Key := Fin 16

end Sys2Proof
end

