-- ==== Sys2Proof/Syntax.lean ====
section
/-!
DEFINITION. The instructions: one constructor per row of spec/opcode_table.json, in the order of
spec/30_encoding.md R50. Operands carry their field's width (R46 to R48), so every term is an
instruction of the machine.
-/

namespace Sys2Proof

/-- The 34 instruction forms (R50), named after the spec's mnemonics (R56). -/
inductive Instr where
  /-- 00E0, clear the framebuffer (R105). -/
  | cls
  /-- 00EE, return from subroutine (R70). -/
  | ret
  /-- 1NNN, jump (R71). -/
  | jp (nnn : Addr12)
  /-- 2NNN, call subroutine (R72). -/
  | call (nnn : Addr12)
  /-- 3XNN, skip if VX = NN (R73). -/
  | seVxNn (x : Reg) (nn : Byte)
  /-- 4XNN, skip if VX ≠ NN (R74). -/
  | sneVxNn (x : Reg) (nn : Byte)
  /-- 5XY0, skip if VX = VY (R75). -/
  | seVxVy (x y : Reg)
  /-- 6XNN, load byte (R80). -/
  | ldVxNn (x : Reg) (nn : Byte)
  /-- 7XNN, add byte without carry (R81). -/
  | addVxNn (x : Reg) (nn : Byte)
  /-- 8XY0, copy register (R82). -/
  | ldVxVy (x y : Reg)
  /-- 8XY1, bitwise OR (R83). -/
  | orVxVy (x y : Reg)
  /-- 8XY2, bitwise AND (R84). -/
  | andVxVy (x y : Reg)
  /-- 8XY3, bitwise exclusive OR (R85). -/
  | xorVxVy (x y : Reg)
  /-- 8XY4, add with carry out (R86). -/
  | addVxVy (x y : Reg)
  /-- 8XY5, subtract VY from VX (R87). -/
  | subVxVy (x y : Reg)
  /-- 8XY6, shift VX right by one; Y is encoded and ignored (R88). -/
  | shrVx (x y : Reg)
  /-- 8XY7, subtract VX from VY (R89). -/
  | subnVxVy (x y : Reg)
  /-- 8XYE, shift VX left by one; Y is encoded and ignored (R90). -/
  | shlVx (x y : Reg)
  /-- 9XY0, skip if VX ≠ VY (R76). -/
  | sneVxVy (x y : Reg)
  /-- ANNN, load the index register (R95). -/
  | ldI (nnn : Addr12)
  /-- BNNN, jump with offset V0 (R77). -/
  | jpV0 (nnn : Addr12)
  /-- CXNN, masked random byte (R91). -/
  | rndVxNn (x : Reg) (nn : Byte)
  /-- DXYN, draw a sprite by exclusive OR (R106). -/
  | drw (x y : Reg) (n : RowCount)
  /-- EX9E, skip if the key numbered VX is pressed (R110). -/
  | skp (x : Reg)
  /-- EXA1, skip if the key numbered VX is not pressed (R111). -/
  | sknp (x : Reg)
  /-- FX07, read the delay timer (R112). -/
  | ldVxDt (x : Reg)
  /-- FX0A, wait for a key (R113). -/
  | ldVxK (x : Reg)
  /-- FX15, set the delay timer (R114). -/
  | ldDtVx (x : Reg)
  /-- FX18, set the sound timer (R115). -/
  | ldStVx (x : Reg)
  /-- FX1E, add register to index, with overflow flag (R96). -/
  | addIVx (x : Reg)
  /-- FX29, point `I` at a font glyph (R97). -/
  | ldFVx (x : Reg)
  /-- FX33, store the three decimal digits of VX (R98). -/
  | ldBVx (x : Reg)
  /-- FX55, store registers V0 to VX (R99). -/
  | ldMemVx (x : Reg)
  /-- FX65, load registers V0 to VX (R100). -/
  | ldVxMem (x : Reg)
deriving DecidableEq, Repr

end Sys2Proof
end

