-- ==== Sys2Proof/Decode.lean ====
section
/-!
DEFINITION. Decoding (spec/30_encoding.md R45 to R55): the opcode map of R50 as a list of rows, a total decoder
over words and over bytes, and after it the encoder, written from the formats of R47.
-/

namespace Sys2Proof

/-! The fields of a word (R46). -/

/-- X = bits 11 to 8 (R46). -/
def fieldX (w : Word) : Reg := (w.extractLsb' 8 4).toFin

/-- Y = bits 7 to 4 (R46). -/
def fieldY (w : Word) : Reg := (w.extractLsb' 4 4).toFin

/-- N = bits 3 to 0 (R46). -/
def fieldN (w : Word) : RowCount := (w.extractLsb' 0 4).toFin

/-- NN = bits 7 to 0 (R46). -/
def fieldNN (w : Word) : Byte := w.extractLsb' 0 8

/-- NNN = bits 11 to 0 (R46). -/
def fieldNNN (w : Word) : Addr12 := w.extractLsb' 0 12

/-- A row of the opcode map: a word `w` selects it when `w &&& mask = value` (R50, whose column
"match" is `value`). -/
structure Row where
  mask : Word
  value : Word
  build : Word → Instr

/-- Rows 1 to 9 of R50. -/
def rows1 : List Row :=
  [⟨0xFFFF, 0x00E0, fun _ => .cls⟩,
   ⟨0xFFFF, 0x00EE, fun _ => .ret⟩,
   ⟨0xF000, 0x1000, fun w => .jp (fieldNNN w)⟩,
   ⟨0xF000, 0x2000, fun w => .call (fieldNNN w)⟩,
   ⟨0xF000, 0x3000, fun w => .seVxNn (fieldX w) (fieldNN w)⟩,
   ⟨0xF000, 0x4000, fun w => .sneVxNn (fieldX w) (fieldNN w)⟩,
   ⟨0xF00F, 0x5000, fun w => .seVxVy (fieldX w) (fieldY w)⟩,
   ⟨0xF000, 0x6000, fun w => .ldVxNn (fieldX w) (fieldNN w)⟩,
   ⟨0xF000, 0x7000, fun w => .addVxNn (fieldX w) (fieldNN w)⟩]

/-- Rows 10 to 18 of R50, the forms with OP 8. -/
def rows10 : List Row :=
  [⟨0xF00F, 0x8000, fun w => .ldVxVy (fieldX w) (fieldY w)⟩,
   ⟨0xF00F, 0x8001, fun w => .orVxVy (fieldX w) (fieldY w)⟩,
   ⟨0xF00F, 0x8002, fun w => .andVxVy (fieldX w) (fieldY w)⟩,
   ⟨0xF00F, 0x8003, fun w => .xorVxVy (fieldX w) (fieldY w)⟩,
   ⟨0xF00F, 0x8004, fun w => .addVxVy (fieldX w) (fieldY w)⟩,
   ⟨0xF00F, 0x8005, fun w => .subVxVy (fieldX w) (fieldY w)⟩,
   ⟨0xF00F, 0x8006, fun w => .shrVx (fieldX w) (fieldY w)⟩,
   ⟨0xF00F, 0x8007, fun w => .subnVxVy (fieldX w) (fieldY w)⟩,
   ⟨0xF00F, 0x800E, fun w => .shlVx (fieldX w) (fieldY w)⟩]

/-- Rows 19 to 25 of R50. -/
def rows19 : List Row :=
  [⟨0xF00F, 0x9000, fun w => .sneVxVy (fieldX w) (fieldY w)⟩,
   ⟨0xF000, 0xA000, fun w => .ldI (fieldNNN w)⟩,
   ⟨0xF000, 0xB000, fun w => .jpV0 (fieldNNN w)⟩,
   ⟨0xF000, 0xC000, fun w => .rndVxNn (fieldX w) (fieldNN w)⟩,
   ⟨0xF000, 0xD000, fun w => .drw (fieldX w) (fieldY w) (fieldN w)⟩,
   ⟨0xF0FF, 0xE09E, fun w => .skp (fieldX w)⟩,
   ⟨0xF0FF, 0xE0A1, fun w => .sknp (fieldX w)⟩]

/-- Rows 26 to 34 of R50, the forms with OP F. -/
def rows26 : List Row :=
  [⟨0xF0FF, 0xF007, fun w => .ldVxDt (fieldX w)⟩,
   ⟨0xF0FF, 0xF00A, fun w => .ldVxK (fieldX w)⟩,
   ⟨0xF0FF, 0xF015, fun w => .ldDtVx (fieldX w)⟩,
   ⟨0xF0FF, 0xF018, fun w => .ldStVx (fieldX w)⟩,
   ⟨0xF0FF, 0xF01E, fun w => .addIVx (fieldX w)⟩,
   ⟨0xF0FF, 0xF029, fun w => .ldFVx (fieldX w)⟩,
   ⟨0xF0FF, 0xF033, fun w => .ldBVx (fieldX w)⟩,
   ⟨0xF0FF, 0xF055, fun w => .ldMemVx (fieldX w)⟩,
   ⟨0xF0FF, 0xF065, fun w => .ldVxMem (fieldX w)⟩]

/-- The opcode map (R50), 34 rows. -/
def rows : List Row := rows1 ++ rows10 ++ rows19 ++ rows26

/-- Whether a word selects a row (R50). -/
def Row.selects (r : Row) (w : Word) : Bool := w &&& r.mask == r.value

/-- Decode: a pure function of the word; `none` is the spec's `unknown` (R49, R52, R55). -/
def decodeWord (w : Word) : Option Instr :=
  (rows.find? fun r => r.selects w).map fun r => r.build w

/-- Why a byte sequence starts with no instruction. -/
inductive DecodeError where
  /-- Fewer than two bytes: no whole word (R45). -/
  | truncated
  /-- The word matches no row of R50 (R52). -/
  | unknownOpcode (w : Word)
deriving DecidableEq, Repr

/-- The word two consecutive bytes make, the first one high (R32). -/
def composeWord (hi lo : Byte) : Word := hi ++ lo

/-- Decode the instruction at the front of any bytes, giving the bytes after it (R32, R45, R49). -/
def decode : List Byte → Except DecodeError (Instr × List Byte)
  | hi :: lo :: rest =>
    match decodeWord (composeWord hi lo) with
    | some i => .ok (i, rest)
    | none => .error (.unknownOpcode (composeWord hi lo))
  | _ => .error .truncated

/-- The two bytes of a word as memory holds them, high byte first (R32). -/
def wordBytes (w : Word) : List Byte := [w.extractLsb' 8 8, w.extractLsb' 0 8]

/-! The encoder: the formats of R47. -/

/-- A register number or row count as its four bits. -/
def nibbleBits (n : Fin 16) : BitVec 4 := BitVec.ofFin n

/-- Format A: OP, NNN (R47). -/
def formatA (op : BitVec 4) (nnn : Addr12) : Word := op ++ nnn

/-- Format XK: OP, X, NN; format XF is the same with a function byte (R47). -/
def formatXK (op : BitVec 4) (x : Reg) (nn : Byte) : Word := op ++ nibbleBits x ++ nn

/-- Format XYN: OP, X, Y, N; format XY is the same with a function nibble (R47). -/
def formatXYN (op : BitVec 4) (x y : Reg) (n : Fin 16) : Word :=
  op ++ nibbleBits x ++ nibbleBits y ++ nibbleBits n

/-- The word of an instruction (R47, R50). -/
def encode : Instr → Word
  | .cls => 0x00E0
  | .ret => 0x00EE
  | .jp nnn => formatA 0x1 nnn
  | .call nnn => formatA 0x2 nnn
  | .seVxNn x nn => formatXK 0x3 x nn
  | .sneVxNn x nn => formatXK 0x4 x nn
  | .seVxVy x y => formatXYN 0x5 x y 0x0
  | .ldVxNn x nn => formatXK 0x6 x nn
  | .addVxNn x nn => formatXK 0x7 x nn
  | .ldVxVy x y => formatXYN 0x8 x y 0x0
  | .orVxVy x y => formatXYN 0x8 x y 0x1
  | .andVxVy x y => formatXYN 0x8 x y 0x2
  | .xorVxVy x y => formatXYN 0x8 x y 0x3
  | .addVxVy x y => formatXYN 0x8 x y 0x4
  | .subVxVy x y => formatXYN 0x8 x y 0x5
  | .shrVx x y => formatXYN 0x8 x y 0x6
  | .subnVxVy x y => formatXYN 0x8 x y 0x7
  | .shlVx x y => formatXYN 0x8 x y 0xE
  | .sneVxVy x y => formatXYN 0x9 x y 0x0
  | .ldI nnn => formatA 0xA nnn
  | .jpV0 nnn => formatA 0xB nnn
  | .rndVxNn x nn => formatXK 0xC x nn
  | .drw x y n => formatXYN 0xD x y n
  | .skp x => formatXK 0xE x 0x9E
  | .sknp x => formatXK 0xE x 0xA1
  | .ldVxDt x => formatXK 0xF x 0x07
  | .ldVxK x => formatXK 0xF x 0x0A
  | .ldDtVx x => formatXK 0xF x 0x15
  | .ldStVx x => formatXK 0xF x 0x18
  | .addIVx x => formatXK 0xF x 0x1E
  | .ldFVx x => formatXK 0xF x 0x29
  | .ldBVx x => formatXK 0xF x 0x33
  | .ldMemVx x => formatXK 0xF x 0x55
  | .ldVxMem x => formatXK 0xF x 0x65

/-- The number of an instruction's row in R50, less one: its place in `rows`. -/
def rowIndex : Instr → Nat
  | .cls => 0
  | .ret => 1
  | .jp _ => 2
  | .call _ => 3
  | .seVxNn _ _ => 4
  | .sneVxNn _ _ => 5
  | .seVxVy _ _ => 6
  | .ldVxNn _ _ => 7
  | .addVxNn _ _ => 8
  | .ldVxVy _ _ => 9
  | .orVxVy _ _ => 10
  | .andVxVy _ _ => 11
  | .xorVxVy _ _ => 12
  | .addVxVy _ _ => 13
  | .subVxVy _ _ => 14
  | .shrVx _ _ => 15
  | .subnVxVy _ _ => 16
  | .shlVx _ _ => 17
  | .sneVxVy _ _ => 18
  | .ldI _ => 19
  | .jpV0 _ => 20
  | .rndVxNn _ _ => 21
  | .drw _ _ _ => 22
  | .skp _ => 23
  | .sknp _ => 24
  | .ldVxDt _ => 25
  | .ldVxK _ => 26
  | .ldDtVx _ => 27
  | .ldStVx _ => 28
  | .addIVx _ => 29
  | .ldFVx _ => 30
  | .ldBVx _ => 31
  | .ldMemVx _ => 32
  | .ldVxMem _ => 33

/-- What the decoder reads from an instruction whose low `nbits` bits are those of `w`, numbered as
spec/opcode_table.json numbers them; its bytes are laid out as memory holds them (R32). -/
def decodeTableWord (nbits w : Nat) : Option Instr :=
  match decode (wordBytes (BitVec.ofNat 16 (w % 2 ^ nbits))) with
  | .ok (i, _) => some i
  | .error _ => none

end Sys2Proof
end

