-- ==== Sys2Proof/Config.lean ====
section
/-!
DEFINITION. What the spec fixes for the machine as a whole (spec/00_scope.md R4) and the one free value
(R5). The other open parameter, FONT, stands in Sys2Proof/Machine/Font.lean.
-/

namespace Sys2Proof.Config

/-- PROG_BASE: where `load` puts a ROM, and `pc` after reset (R4, R145). -/
abbrev progBase : Nat := 0x200

/-- ROM_MAX: the longest ROM `load` accepts, 4096 - 512 bytes (R4). -/
abbrev romMax : Nat := 3584

/-- MEM_SIZE: valid addresses are those below it (R4, R10). -/
abbrev memSize : Nat := 4096

/-- The random byte of a step for which the host supplied none (R5, R22): a free value, under no law.
It has no body, so no proof can learn a value of it. Applied to `State.rndIndex`, which every step
advances. DESIGN CHOICE, safe (log entry 2). -/
opaque randomByte : Nat → Byte

end Sys2Proof.Config
end

