-- ==== Sys2Proof/Machine/State.lean ====
section
/-!
DEFINITION. The state (spec/10_state.md R10 to R24) as plain data, the errors of spec/60_exceptions.md R120, and
the state after reset (R24, R140). Operations over them stand in the other files of this folder.
-/

namespace Sys2Proof.Machine

/-- Memory (R10): address and byte pairs, addresses strictly rising, no entry equal to what an unlisted
address reads as (`Memory.wf`, Machine/Memory.lean). -/
abbrev Memory := List Host.Cell

/-- The framebuffer (R18): 32 rows of 64 cells, row 0 on top, column 0 left; `true` is 1, set. -/
abbrev Framebuffer := Vector (Vector Bool 64) 32

/-- The state: the twelve members of spec/10_state.md, and two of the model's own that carry the input
`rnd` of the coming steps (R22). -/
structure State where
  /-- `mem` (R10). -/
  mem : Memory
  /-- `x[0]` to `x[15]`, V0 to VF (R11, R12). -/
  regs : Vector Byte 16
  /-- The index register (R13). -/
  I : Word
  /-- The program counter (R14). -/
  pc : Word
  /-- The call stack's sixteen slots (R15). -/
  stack : Vector Word 16
  /-- The stack pointer, 0 to 16: how many entries are pushed (R15). -/
  sp : Fin 17
  /-- The delay timer (R16). -/
  dt : Byte
  /-- The sound timer (R17). -/
  st : Byte
  /-- The framebuffer (R18). -/
  fb : Framebuffer
  /-- The key vector; the host's to write (R19). -/
  keys : Vector Bool 16
  /-- The draw request (R20). -/
  drawFlag : Bool
  /-- The beep request (R21). -/
  beepFlag : Bool
  /-- The model's own: the random bytes the host has supplied for the coming steps, oldest first;
  a step takes the first (R22, R137; log entry 2). -/
  rndQueue : List Byte
  /-- The model's own: which free value a step without a supplied byte draws (log entry 2). -/
  rndIndex : Nat
deriving DecidableEq, Repr

/-- The error kinds (R120). -/
inductive CoreError where
  /-- Raised by decode: the word matches no row of the opcode map (R121). -/
  | unknownOpcode (w : Word)
  /-- Raised by 2NNN when `sp = 16` (R122). -/
  | stackOverflow
  /-- Raised by 00EE when `sp = 0` (R123). -/
  | stackUnderflow
  /-- Raised by fetch, DXYN, FX33, FX55 and FX65 when an address of the access is above 0xFFF;
  `addr` is the lowest such address (R124, R36). -/
  | memoryOutOfRange (addr : Nat)
  /-- Reported by `load`, never by a step: the ROM is longer than 3584 bytes (R125). -/
  | romTooLarge
deriving DecidableEq, Repr

/-- How a step reports an error (`Err`, R67): the error and the state after it, which the next step would
start from (R127, R129). A faulting step is the spec's own outcome, so each of these is safe: the
run stops where the host is told to stop, and nothing of the state is lost (log entry 1). -/
inductive Fault where
  /-- Raised by decode (Machine/Cycle.lean) on a word that is no instruction (R52, R121). Safe. -/
  | unknownOpcode (w : Word) (after : State)
  /-- Raised by 2NNN when `sp = 16` (R72, R122). Safe. -/
  | stackOverflow (after : State)
  /-- Raised by 00EE when `sp = 0` (R70, R123). Safe. -/
  | stackUnderflow (after : State)
  /-- Raised by fetch, DXYN, FX33, FX55 and FX65 on an address above 0xFFF; `addr` is the lowest
  such address of the access (R36, R124). Safe. -/
  | memoryOutOfRange (addr : Nat) (after : State)
deriving DecidableEq, Repr

/-- Why an instruction has no meaning. -/
inductive Refusal where
  /-- Raised by an arm of `exec` whose instruction has no meaning yet: none, at present. Safe. -/
  | notModelled (mnemonic : String)
deriving DecidableEq, Repr

/-- The state after `reset` (R24, R140). Memory lists nothing: an unlisted address reads as its reset value.
The last two fields are the model's own, at values it chose (DESIGN CHOICE, log entry 3). -/
def State.reset : State where
  mem := []
  regs := Vector.replicate 16 0
  I := 0
  pc := BitVec.ofNat 16 Config.progBase
  stack := Vector.replicate 16 0
  sp := 0
  dt := 0
  st := 0
  fb := Vector.replicate 32 (Vector.replicate 64 false)
  keys := Vector.replicate 16 false
  drawFlag := true
  beepFlag := false
  rndQueue := []
  rndIndex := 0

end Sys2Proof.Machine
end

