-- ==== Sys2Proof/Machine/Memory.lean ====
section
/-!
DEFINITION. Memory (spec/20_memory.md): reading and writing one byte, the wider transfers built from them, and
the range check of R36. Nothing here has alignment or side effects (R34, R35).
-/

namespace Sys2Proof.Machine

/-- What an unlisted address reads as: its reset value, FONT below 0x050 and zero above (R24, R27). -/
def unlisted (a : Nat) : Byte := font.getD a 0

/-- The canonical form: addresses strictly rising and below 4096, no entry equal to what an unlisted
address reads as. -/
abbrev Memory.wf (m : Memory) : Prop :=
  m.Pairwise (fun c d => c.1 < d.1) ∧ ∀ c ∈ m, c.1 < Config.memSize ∧ c.2 ≠ unlisted c.1

/-- `mem[a]` (R7). -/
def memRead : Memory → Nat → Byte
  | [], a => unlisted a
  | c :: m, a => if a = c.1 then c.2 else memRead m a

/-- A memory without the entries of address `a`. -/
def memErase (m : Memory) (a : Nat) : Memory := m.filter fun c => c.1 != a

/-- A memory with an entry put before the first entry of a higher address. -/
def memInsert (c : Host.Cell) : Memory → Memory
  | [] => [c]
  | d :: m => if c.1 < d.1 then c :: d :: m else d :: memInsert c m

/-- `mem[a] <- v` (R7); writing the value an unlisted address reads as leaves no entry. -/
def memWrite (m : Memory) (a : Nat) (v : Byte) : Memory :=
  if v = unlisted a then memErase m a else memInsert (a, v) (memErase m a)

/-- `MemRead(a, 2)`: two bytes, big-endian (R7, R32). -/
def memRead2 (m : Memory) (a : Nat) : Word := memRead m a ++ memRead m (a + 1)

/-- The `n` bytes at `a`, ascending (R33, R35). -/
def loadBytes (m : Memory) (a n : Nat) : List Byte := (List.range n).map fun k => memRead m (a + k)

/-- Store bytes at `a` upward, ascending (R33, R35). -/
def storeBytes (m : Memory) (a : Nat) : List Byte → Memory
  | [] => m
  | v :: vs => storeBytes (memWrite m a v) (a + 1) vs

/-- Whether an access of `n` bytes at `base` stays inside memory; an access of no byte always does.
The sum is exact (R36). -/
def memRangeOk (base n : Nat) : Bool := decide (n = 0 ∨ base + n - 1 ≤ 0xFFF)

/-- The lowest out-of-range address of an access at `base` that leaves memory (R36). -/
def lowestBad (base : Nat) : Nat := max base 0x1000

end Sys2Proof.Machine
end

