-- ==== Sys2Proof/Machine/Operands.lean ====
section
/-!
DEFINITION. The operand forms (spec/30_encoding.md R48, spec/20_memory.md R39, R41, spec/43_index_memory.md):
registers, immediates, key numbers, framebuffer coordinates, decimal digits, the random byte.
-/

namespace Sys2Proof.Machine

/-- `x[r]` (R7, R11). -/
def readReg (s : State) (r : Reg) : Byte := s.regs[r]

/-- NNN as a 16-bit address; nothing is scaled or sign-extended (R48). -/
def addrOperand (nnn : Addr12) : Word := nnn.setWidth 16

/-- The key a register value selects: its low four bits (R41). -/
def keyNumber (v : Byte) : Key := Fin.ofNat 16 v.toNat

/-- `keys[k]` (R7, R19). -/
def keyDown (s : State) (k : Key) : Bool := s.keys[k]

/-- The least pressed key, if any: the ascending scan of FX0A (R113). -/
def firstKey (s : State) : Option Key := (List.finRange 16).find? fun k => keyDown s k

/-- The column of a sprite's column `c`, wrapped (R39). -/
def spriteCol (vx : Byte) (c : Nat) : Fin 64 := Fin.ofNat 64 (vx.toNat + c)

/-- The row of a sprite's row `r`, wrapped (R39). -/
def spriteRow (vy : Byte) (r : Nat) : Fin 32 := Fin.ofNat 32 (vy.toNat + r)

/-- The address FX29 computes: the whole byte times 5 (R97). -/
def glyphAddr (v : Byte) : Word := BitVec.ofNat 16 (v.toNat * 5)

/-- The decimal digits FX33 stores, hundreds first (R98). -/
def decimalDigits (v : Byte) : List Byte :=
  [BitVec.ofNat 8 (v.toNat / 100), BitVec.ofNat 8 (v.toNat / 10 % 10), BitVec.ofNat 8 (v.toNat % 10)]

/-- How many registers FX55 and FX65 transfer: V0 to VX, inclusive (R99, R100). -/
def transferCount (x : Reg) : Nat := x.val + 1

/-- This step's random byte: the first the host has supplied, else a free value (R5, R22; log entry 2). -/
def rndByte (s : State) : Byte :=
  match s.rndQueue with
  | [] => Config.randomByte s.rndIndex
  | r :: _ => r

end Sys2Proof.Machine
end

