-- ==== Sys2Proof/Machine/Flags.lean ====
section
/-!
DEFINITION. Every flag the instructions write into VF (spec/10_state.md R12), each computed on exact unsigned
integers (spec/42_load_alu.md R79). The collision flag of DXYN is computed in Machine/Display.lean.
-/

namespace Sys2Proof.Machine

/-- A flag as the value of VF: 1 or 0 (R12). -/
def flagByte (b : Bool) : Byte := if b then 1 else 0

/-- Carry of 8XY4: the exact sum is above 255 (R86). -/
def carryOut (a b : Byte) : Bool := decide (a.toNat + b.toNat > 255)

/-- Not-borrow of `a - b`: 1 when `a ≥ b`, equality included (R87, R89). -/
def noBorrow (a b : Byte) : Bool := decide (b.toNat ≤ a.toNat)

/-- The bit 8XY6 shifts out, bit 0 (R88). -/
def shiftOutRight (a : Byte) : Bool := a.getLsbD 0

/-- The bit 8XYE shifts out, bit 7 (R90). -/
def shiftOutLeft (a : Byte) : Bool := a.getLsbD 7

/-- Index overflow of FX1E: the exact sum is above 0xFFF (R96). -/
def indexOverflow (i : Word) (a : Byte) : Bool := decide (i.toNat + a.toNat > 0xFFF)

end Sys2Proof.Machine
end

