-- ==== Sys2Proof/Machine/Ops.lean ====
section
/-!
DEFINITION. The named operations the meanings share: register and pc writes (spec/10_state.md R11 to R15),
and raising an error (spec/00_scope.md R8, spec/60_exceptions.md R127). There is no return from an
exception beside it: the machine has none (R129).
-/

namespace Sys2Proof.Machine

/-- `x[r] <- v` (R7, R11). -/
def writeReg (s : State) (r : Reg) (v : Byte) : State := { s with regs := s.regs.set r.val v r.isLt }

/-- `x[15] <-` a flag (R12). -/
def writeVF (s : State) (b : Bool) : State := writeReg s 15 (flagByte b)

/-- `I <- v` (R7, R13). -/
def writeI (s : State) (v : Word) : State := { s with I := v }

/-- `pc <- target` (R7, R14). -/
def jumpTo (s : State) (target : Word) : State := { s with pc := target }

/-- `pc <- pc + 2`, the next instruction, modulo 65536 (R14, R64). -/
def advance (s : State) : State := { s with pc := s.pc + 2 }

/-- `pc <- pc + 4` if the condition holds, else `pc <- pc + 2` (R64). -/
def skipIf (c : Bool) (s : State) : State := { s with pc := if c then s.pc + 4 else s.pc + 2 }

/-- Push: `stack[sp] <- v`, then `sp <- sp + 1` (R15). -/
def push (s : State) (v : Word) (h : s.sp.val < 16) : State :=
  { s with stack := s.stack.set s.sp.val v h, sp := ⟨s.sp.val + 1, by omega⟩ }

/-- Pop: `sp <- sp - 1`; the slot keeps its value (R15). -/
def pop (s : State) : State := { s with sp := ⟨s.sp.val - 1, by omega⟩ }

/-- The newest entry of a stack that is not empty, `stack[sp - 1]` (R15). -/
def stackTop (s : State) (h : 0 < s.sp.val) : Word := s.stack[s.sp.val - 1]

/-- Set memory (R10). -/
def writeMem (s : State) (m : Memory) : State := { s with mem := m }

/-- Set the whole register file (R11). -/
def writeRegs (s : State) (regs : Vector Byte 16) : State := { s with regs := regs }

/-- Set the framebuffer and `drawFlag` (R18, R20). -/
def redraw (s : State) (fb : Framebuffer) : State := { s with fb := fb, drawFlag := true }

/-- `dt <- v` (R7, R16). -/
def writeDt (s : State) (v : Byte) : State := { s with dt := v }

/-- `st <- v` (R7, R17). -/
def writeSt (s : State) (v : Byte) : State := { s with st := v }

/-- The shared operation of an error, the machine's only exception: the execute phase writes nothing,
`pc` included, and the error goes to the host (R8, R65, R127). -/
def raise (error : State → Fault) (s : State) : Host.Outcome State Fault Refusal := .fault (error s)

/-- The range check of DXYN, FX33, FX55 and FX65, before the first write: over the whole access of `n`
bytes at `base` (R36); `t` is the state of an access that stays inside memory. -/
def checkRange (base n : Nat) (s t : State) : Host.Outcome State Fault Refusal :=
  if memRangeOk base n then .next t else raise (.memoryOutOfRange (lowestBad base)) s

/-- The error a fault reports, with its info (R120). -/
def Fault.error : Fault → CoreError
  | .unknownOpcode w _ => .unknownOpcode w
  | .stackOverflow _ => .stackOverflow
  | .stackUnderflow _ => .stackUnderflow
  | .memoryOutOfRange a _ => .memoryOutOfRange a

/-- The state after a faulting step (R129). -/
def Fault.after : Fault → State
  | .unknownOpcode _ s => s
  | .stackOverflow s => s
  | .stackUnderflow s => s
  | .memoryOutOfRange _ s => s

/-- The same error over a changed state. -/
def Fault.mapAfter (f : State → State) : Fault → Fault
  | .unknownOpcode w s => .unknownOpcode w (f s)
  | .stackOverflow s => .stackOverflow (f s)
  | .stackUnderflow s => .stackUnderflow (f s)
  | .memoryOutOfRange a s => .memoryOutOfRange a (f s)

/-- The numeric code of an error; 0 is `Ok` (R120). -/
def CoreError.code : CoreError → Nat
  | .unknownOpcode _ => 1
  | .stackOverflow => 2
  | .stackUnderflow => 3
  | .memoryOutOfRange _ => 4
  | .romTooLarge => 5

end Sys2Proof.Machine
end

