-- ==== Sys2Proof/Machine/Cycle.lean ====
section
/-!
DEFINITION. The parts of a step around the execute phase (spec/40_step_cycle.md): fetch and decode (R61, R62)
and the timer phase (R66), with the hand-over of the input `rnd` to the next step (R22, R60).
-/

namespace Sys2Proof.Machine

/-- Phases 1 and 2: fetch the word at `pc` (R61) and decode it (R62). Neither changes the state; a fetch
that leaves memory and an unknown word raise their errors. -/
def fetchDecode (s : State) : Except Fault Instr :=
  if memRangeOk s.pc.toNat 2 then
    match decodeWord (memRead2 s.mem s.pc.toNat) with
    | some i => .ok i
    | none => .error (.unknownOpcode (memRead2 s.mem s.pc.toNat) s)
  else .error (.memoryOutOfRange (lowestBad s.pc.toNat) s)

/-- One tick of a timer: toward zero, never below (R66). -/
def tick (t : Byte) : Byte := if 0 < t.toNat then t - 1 else t

/-- Phase 4: both timers tick; the sound timer's change from 1 to 0 sets `beepFlag` (R66). -/
def timerPhase (s : State) : State :=
  { s with dt := tick s.dt, st := tick s.st, beepFlag := s.beepFlag || s.st == 1 }

/-- The step has used up its input `rnd` (R22, R60): drop it from the queue, and let the next step without
a supplied byte draw the next free value. -/
def consumeRnd (s : State) : State :=
  { s with rndQueue := s.rndQueue.tail, rndIndex := s.rndIndex + 1 }

/-- What ends every step (R60, R66). -/
def endStep (s : State) : State := consumeRnd (timerPhase s)

/-- The end of a step after any outcome of its phases 1 to 3, an error's included (R65, R66). -/
def finish : Host.Outcome State Fault Refusal → Host.Outcome State Fault Refusal
  | .next s => .next (endStep s)
  | .fault f => .fault (f.mapAfter endStep)
  | .refused r => .refused r

end Sys2Proof.Machine
end

