-- ==== Sys2Proof/Machine/Alu.lean ====
section
/-!
DEFINITION. Register load, arithmetic, logic, shift and random (spec/42_load_alu.md R79 to R91).
-/

namespace Sys2Proof.Machine

/-- The shared shape of an instruction that writes a result and no flag: `x[X] <- v`, `pc <- pc + 2`. -/
def setResult (s : State) (x : Reg) (v : Byte) : Host.Outcome State Fault Refusal :=
  .next (advance (writeReg s x v))

/-- The shared shape of an instruction that writes a flag and a result: VF first, then `x[X]`, so that with
X = 15 the result wins (R9). Both values were computed from operands sampled before (R9). -/
def setFlagResult (s : State) (flag : Bool) (x : Reg) (v : Byte) : Host.Outcome State Fault Refusal :=
  .next (advance (writeReg (writeVF s flag) x v))

/-- 6XNN (R80). -/
def execLdVxNn (x : Reg) (nn : Byte) (s : State) : Host.Outcome State Fault Refusal :=
  setResult s x nn

/-- 7XNN: modulo 256, VF untouched (R81). -/
def execAddVxNn (x : Reg) (nn : Byte) (s : State) : Host.Outcome State Fault Refusal :=
  setResult s x (readReg s x + nn)

/-- 8XY0 (R82). -/
def execLdVxVy (x y : Reg) (s : State) : Host.Outcome State Fault Refusal :=
  setResult s x (readReg s y)

/-- 8XY1 (R83). -/
def execOrVxVy (x y : Reg) (s : State) : Host.Outcome State Fault Refusal :=
  setResult s x (readReg s x ||| readReg s y)

/-- 8XY2 (R84). -/
def execAndVxVy (x y : Reg) (s : State) : Host.Outcome State Fault Refusal :=
  setResult s x (readReg s x &&& readReg s y)

/-- 8XY3 (R85). -/
def execXorVxVy (x y : Reg) (s : State) : Host.Outcome State Fault Refusal :=
  setResult s x (readReg s x ^^^ readReg s y)

/-- 8XY4 (R86). -/
def execAddVxVy (x y : Reg) (s : State) : Host.Outcome State Fault Refusal :=
  setFlagResult s (carryOut (readReg s x) (readReg s y)) x (readReg s x + readReg s y)

/-- 8XY5 (R87). -/
def execSubVxVy (x y : Reg) (s : State) : Host.Outcome State Fault Refusal :=
  setFlagResult s (noBorrow (readReg s x) (readReg s y)) x (readReg s x - readReg s y)

/-- 8XY6: Y is ignored (R88). -/
def execShrVx (x _y : Reg) (s : State) : Host.Outcome State Fault Refusal :=
  setFlagResult s (shiftOutRight (readReg s x)) x (readReg s x >>> 1)

/-- 8XY7 (R89). -/
def execSubnVxVy (x y : Reg) (s : State) : Host.Outcome State Fault Refusal :=
  setFlagResult s (noBorrow (readReg s y) (readReg s x)) x (readReg s y - readReg s x)

/-- 8XYE: Y is ignored (R90). -/
def execShlVx (x _y : Reg) (s : State) : Host.Outcome State Fault Refusal :=
  setFlagResult s (shiftOutLeft (readReg s x)) x (readReg s x <<< 1)

/-- CXNN: this step's random byte under a mask (R91). -/
def execRndVxNn (x : Reg) (nn : Byte) (s : State) : Host.Outcome State Fault Refusal :=
  setResult s x (rndByte s &&& nn)

end Sys2Proof.Machine
end

