-- ==== Sys2Proof/Machine/Display.lean ====
section
/-!
DEFINITION. Clearing the framebuffer and drawing a sprite (spec/44_display.md R105, R106).
-/

namespace Sys2Proof.Machine

/-- `fb[y][x]` (R7, R18). -/
def cell (fb : Framebuffer) (y : Fin 32) (x : Fin 64) : Bool := (fb[y])[x]

/-- `fb[y][x] <- fb[y][x] ^ 1` (R106). -/
def flipCell (fb : Framebuffer) (y : Fin 32) (x : Fin 64) : Framebuffer :=
  fb.set y.val ((fb[y]).set x.val (!cell fb y x) x.isLt) y.isLt

/-- The framebuffer with every cell 0 (R105). -/
def clearFb : Framebuffer := Vector.replicate 32 (Vector.replicate 64 false)

/-- Column `c` of sprite row `r`, whose byte is `row`: bit `7 - c`, the leftmost first. A set bit flips its
cell, and collides if the cell was 1 (R106). The accumulator is the framebuffer and the collision. -/
def drawPixel (vx vy : Byte) (r : Nat) (row : Byte) (acc : Framebuffer × Bool) (c : Nat) :
    Framebuffer × Bool :=
  if row.getLsbD (7 - c) then
    (flipCell acc.1 (spriteRow vy r) (spriteCol vx c),
      acc.2 || cell acc.1 (spriteRow vy r) (spriteCol vx c))
  else acc

/-- The eight columns of one sprite row (R106). -/
def drawRow (vx vy : Byte) (r : Nat) (row : Byte) (acc : Framebuffer × Bool) : Framebuffer × Bool :=
  (List.range 8).foldl (drawPixel vx vy r row) acc

/-- The sprite's rows from row `r` on (R106). -/
def drawRows (vx vy : Byte) (r : Nat) : List Byte → Framebuffer × Bool → Framebuffer × Bool
  | [], acc => acc
  | row :: rest, acc => drawRows vx vy (r + 1) rest (drawRow vx vy r row acc)

/-- 00E0 (R105). -/
def execCls (s : State) : Host.Outcome State Fault Refusal :=
  .next (advance (redraw s clearFb))

/-- The sprite of a DXYN drawn over the framebuffer, and whether it collides (R106). -/
def drawSprite (s : State) (x y : Reg) (n : RowCount) : Framebuffer × Bool :=
  drawRows (readReg s x) (readReg s y) 0 (loadBytes s.mem s.I.toNat n.val) (s.fb, false)

/-- DXYN: the coordinates are sampled before VF is written; the whole sprite is checked first (R106). -/
def execDrw (x y : Reg) (n : RowCount) (s : State) : Host.Outcome State Fault Refusal :=
  checkRange s.I.toNat n.val s
    (advance (writeVF (redraw s (drawSprite s x y n).1) (drawSprite s x y n).2))

end Sys2Proof.Machine
end

