-- ==== Sys2Proof/Machine/Flow.lean ====
section
/-!
DEFINITION. Control transfer (spec/41_flow_control.md R70 to R77).
-/

namespace Sys2Proof.Machine

/-- 00EE: the popped value plus 2 is the new pc; `StackUnderflow` when nothing is pushed (R70). -/
def execRet (s : State) : Host.Outcome State Fault Refusal :=
  if h : 0 < s.sp.val then .next (jumpTo (pop s) (stackTop s h + 2)) else raise .stackUnderflow s

/-- 1NNN (R71). -/
def execJp (nnn : Addr12) (s : State) : Host.Outcome State Fault Refusal :=
  .next (jumpTo s (addrOperand nnn))

/-- 2NNN: push the address of this instruction, then jump; `StackOverflow` when sixteen entries are
pushed (R72). -/
def execCall (nnn : Addr12) (s : State) : Host.Outcome State Fault Refusal :=
  if h : s.sp.val < 16 then .next (jumpTo (push s s.pc h) (addrOperand nnn))
  else raise .stackOverflow s

/-- 3XNN (R73). -/
def execSeVxNn (x : Reg) (nn : Byte) (s : State) : Host.Outcome State Fault Refusal :=
  .next (skipIf (readReg s x == nn) s)

/-- 4XNN (R74). -/
def execSneVxNn (x : Reg) (nn : Byte) (s : State) : Host.Outcome State Fault Refusal :=
  .next (skipIf (readReg s x != nn) s)

/-- 5XY0 (R75). -/
def execSeVxVy (x y : Reg) (s : State) : Host.Outcome State Fault Refusal :=
  .next (skipIf (readReg s x == readReg s y) s)

/-- 9XY0 (R76). -/
def execSneVxVy (x y : Reg) (s : State) : Host.Outcome State Fault Refusal :=
  .next (skipIf (readReg s x != readReg s y) s)

/-- BNNN: the offset is V0, the sum is not reduced to 12 bits (R77). -/
def execJpV0 (nnn : Addr12) (s : State) : Host.Outcome State Fault Refusal :=
  .next (jumpTo s (addrOperand nnn + (readReg s 0).setWidth 16))

end Sys2Proof.Machine
end

