-- ==== Sys2Proof/Machine/Index.lean ====
section
/-!
DEFINITION. The index register and the memory transfers (spec/43_index_memory.md R95 to R100).
-/

namespace Sys2Proof.Machine

/-- `I` after a transfer of V0 to VX: `(I + X + 1) mod 65536` (R99, R100). -/
def indexAfter (s : State) (x : Reg) : Word := s.I + BitVec.ofNat 16 (transferCount x)

/-- The registers V0 to VX, ascending: the bytes FX55 stores (R99). -/
def storedRegs (s : State) (x : Reg) : List Byte := s.regs.toList.take (transferCount x)

/-- The register file after V0 to VX are loaded from the bytes at `I`; the others keep their values (R100). -/
def loadedRegs (s : State) (x : Reg) : Vector Byte 16 :=
  Vector.ofFn fun r => if r ≤ x then memRead s.mem (s.I.toNat + r.val) else readReg s r

/-- ANNN (R95). -/
def execLdI (nnn : Addr12) (s : State) : Host.Outcome State Fault Refusal :=
  .next (advance (writeI s (addrOperand nnn)))

/-- FX1E: VF first, then `I`, which is not reduced to 12 bits (R96). -/
def execAddIVx (x : Reg) (s : State) : Host.Outcome State Fault Refusal :=
  .next (advance (writeI (writeVF s (indexOverflow s.I (readReg s x)))
    (s.I + (readReg s x).setWidth 16)))

/-- FX29 (R97). -/
def execLdFVx (x : Reg) (s : State) : Host.Outcome State Fault Refusal :=
  .next (advance (writeI s (glyphAddr (readReg s x))))

/-- FX33: three digits at `I`, `I` unchanged (R98). -/
def execLdBVx (x : Reg) (s : State) : Host.Outcome State Fault Refusal :=
  checkRange s.I.toNat 3 s
    (advance (writeMem s (storeBytes s.mem s.I.toNat (decimalDigits (readReg s x)))))

/-- FX55 (R99). -/
def execLdMemVx (x : Reg) (s : State) : Host.Outcome State Fault Refusal :=
  checkRange s.I.toNat (transferCount x) s
    (advance (writeI (writeMem s (storeBytes s.mem s.I.toNat (storedRegs s x))) (indexAfter s x)))

/-- FX65 (R100). -/
def execLdVxMem (x : Reg) (s : State) : Host.Outcome State Fault Refusal :=
  checkRange s.I.toNat (transferCount x) s
    (advance (writeI (writeRegs s (loadedRegs s x)) (indexAfter s x)))

end Sys2Proof.Machine
end

