-- ==== Sys2Proof/Machine/Keypad.lean ====
section
/-!
DEFINITION. Keypad and timer instructions (spec/45_keypad_timers.md R110 to R115). The timer phase that follows
each of them in its step is Machine/Cycle.lean's.
-/

namespace Sys2Proof.Machine

/-- EX9E (R110). -/
def execSkp (x : Reg) (s : State) : Host.Outcome State Fault Refusal :=
  .next (skipIf (keyDown s (keyNumber (readReg s x))) s)

/-- EXA1 (R111). -/
def execSknp (x : Reg) (s : State) : Host.Outcome State Fault Refusal :=
  .next (skipIf (!keyDown s (keyNumber (readReg s x))) s)

/-- FX07: the delay timer before this step's tick (R112). -/
def execLdVxDt (x : Reg) (s : State) : Host.Outcome State Fault Refusal :=
  .next (advance (writeReg s x s.dt))

/-- FX0A: the least pressed key, or nothing at all, `pc` unchanged (R113). -/
def execLdVxK (x : Reg) (s : State) : Host.Outcome State Fault Refusal :=
  match firstKey s with
  | some k => .next (advance (writeReg s x (BitVec.ofNat 8 k.val)))
  | none => .next s

/-- FX15 (R114). -/
def execLdDtVx (x : Reg) (s : State) : Host.Outcome State Fault Refusal :=
  .next (advance (writeDt s (readReg s x)))

/-- FX18 (R115). -/
def execLdStVx (x : Reg) (s : State) : Host.Outcome State Fault Refusal :=
  .next (advance (writeSt s (readReg s x)))

end Sys2Proof.Machine
end

