-- ==== Sys2Proof/Machine/Step.lean ====
section
/-!
DEFINITION. The step (spec/40_step_cycle.md R60), and placing an instruction where it fetches.
-/

namespace Sys2Proof.Machine

/-- Phases 1 to 3 of a step: fetch, decode, execute (R60 to R65). -/
def fetchDecodeExecute (s : State) : Host.Outcome State Fault Refusal :=
  match fetchDecode s with
  | .error f => .fault f
  | .ok i => exec i s

/-- One step: fetch, decode, execute, timer phase (R60). -/
def step (s : State) : Host.Outcome State Fault Refusal := finish (fetchDecodeExecute s)

/-- The state with an instruction's word stored where the next step fetches, high byte first (R32, R61);
unchanged where no step can fetch. It stands for the `load` that puts a program there (log entry 8). -/
def State.withFetchWord (s : State) (nbits w : Nat) : State :=
  if memRangeOk s.pc.toNat 2 then
    writeMem s (storeBytes s.mem s.pc.toNat (wordBytes (BitVec.ofNat 16 (w % 2 ^ nbits))))
  else s

end Sys2Proof.Machine
end

