-- ==== Sys2Proof/WellFormed.lean ====
section
/-!
DEFINITION. Well-formed operands. A term of `Instr` holds operands of their fields' widths, so a value that
does not fit its field cannot be written into one; the checks stand where raw numerals (an assembler
listing's, spec/30_encoding.md R56) become operands, each refusing what does not fit (R46, R48), and
where a byte sequence becomes a ROM (spec/70_reset_and_hazards.md R142, R143). Log entry 11.
-/

namespace Sys2Proof

/-- A register field: 0 to 15, every one of them legal (R48). -/
def reg? (n : Nat) : Option Reg := if h : n < 16 then some ⟨n, h⟩ else none

/-- The row count N of DXYN: 0 to 15 (R48). -/
def rowCount? (n : Nat) : Option RowCount := if h : n < 16 then some ⟨n, h⟩ else none

/-- The immediate NN: 0 to 255 (R48). -/
def byte? (n : Nat) : Option Byte := if n < 256 then some (BitVec.ofNat 8 n) else none

/-- The immediate NNN: 0 to 4095 (R48). -/
def addr12? (n : Nat) : Option Addr12 := if n < 4096 then some (BitVec.ofNat 12 n) else none

/-- A ROM `load` accepts: any bytes, at most ROM_MAX of them (R142, R143). -/
def romFits (rom : List Byte) : Bool := decide (rom.length ≤ Config.romMax)

end Sys2Proof
end

