-- ==== Sys2Proof/Machine/HostOps.lean ====
section
/-!
DEFINITION. The host's operations between steps, complete (spec/60_exceptions.md R137, spec/10_state.md R25):
`reset` and `load` (spec/70_reset_and_hazards.md R140 to R143), `step(rnd)`, the key vector, the flag clears, and
what the host reads. The core serialises them: one at a time, never inside a step (R40, R149).
-/

namespace Sys2Proof.Machine

/-- One operation of the host (R137). -/
inductive HostOp where
  /-- Put the core into its reset state (R140). -/
  | reset
  /-- Reset, then copy a ROM to 0x200 (R142, R143). -/
  | load (rom : List Byte)
  /-- One step with this random byte (R60). -/
  | step (rnd : Byte)
  /-- Replace the whole key vector (R137). -/
  | writeKeys (keys : Vector Bool 16)
  /-- Write one key's entry (R137). -/
  | writeKey (k : Key) (down : Bool)
  /-- `drawFlag <- false` (R20). -/
  | clearDrawFlag
  /-- `beepFlag <- false` (R21). -/
  | clearBeepFlag
deriving DecidableEq, Repr

/-- `reset`: nothing of the core's state survives (R140, R141). The two fields that carry the host's own random
bytes are not the core's and stay (R22; DESIGN CHOICE, log entry 10). -/
def resetCore (s : State) : State :=
  { State.reset with rndQueue := s.rndQueue, rndIndex := s.rndIndex }

/-- `load`: the reset state with the ROM at 0x200 upward (R142), or the reset state and `RomTooLarge` (R143). -/
def loadRom (rom : List Byte) (s : State) : State × Option CoreError :=
  if romFits rom then
    (writeMem (resetCore s) (storeBytes (resetCore s).mem Config.progBase rom), none)
  else (resetCore s, some .romTooLarge)

/-- The state with this random byte as the next step's input (R60, R137). -/
def supplyRnd (rnd : Byte) (s : State) : State := { s with rndQueue := rnd :: s.rndQueue }

/-- The state a step leaves and the error it reports, `none` being `Ok` (R67): what the host gets back. -/
def stepResult (s : State) : State × Option CoreError :=
  match step s with
  | .next t => (t, none)
  | .fault f => (f.after, some f.error)
  | .refused _ => (s, none)

/-- The effect of a host operation, and what it reports (R137). -/
def applyHostOp (op : HostOp) (s : State) : State × Option CoreError :=
  match op with
  | .reset => (resetCore s, none)
  | .load rom => loadRom rom s
  | .step rnd => stepResult (supplyRnd rnd s)
  | .writeKeys keys => ({ s with keys := keys }, none)
  | .writeKey k down => ({ s with keys := s.keys.set k.val down k.isLt }, none)
  | .clearDrawFlag => ({ s with drawFlag := false }, none)
  | .clearBeepFlag => ({ s with beepFlag := false }, none)

/-- What the host reads: the framebuffer, `drawFlag`, `beepFlag`; there is "no other observable output" (R137). -/
def observe (s : State) : Framebuffer × Bool × Bool := (s.fb, s.drawFlag, s.beepFlag)

/-- A run of host operations, errors ignored: the host may "ignore and continue" (R129). -/
def runHostOps (ops : List HostOp) (s : State) : State :=
  ops.foldl (fun t op => (applyHostOp op t).1) s

end Sys2Proof.Machine
end

