-- ==== Sys2Proof/Safety.lean ====
section
/-!
DEFINITION. The terms claims are stated in: what a step leaves unchanged, the invariant of every reachable state
(spec/10_state.md R26), a run without an error (spec/60_exceptions.md R129), and the end of a run
(spec/70_reset_and_hazards.md R154).
-/

namespace Sys2Proof.Machine

/-- A piece of the state, down to one register, one byte of memory, one stack slot, one cell, one key. -/
inductive Piece where
  | reg (r : Reg)
  | I
  | pc
  | mem (a : Nat)
  | slot (k : Fin 16)
  | sp
  | dt
  | st
  | cell (y : Fin 32) (x : Fin 64)
  | key (k : Key)
  | drawFlag
  | beepFlag
  /-- The model's own fields for the input `rnd` (log entry 2). -/
  | rnd
deriving DecidableEq, Repr

/-- Whether a piece holds in `t` what it holds in `s`. -/
def samePiece (s t : State) : Piece → Prop
  | .reg r => readReg t r = readReg s r
  | .I => t.I = s.I
  | .pc => t.pc = s.pc
  | .mem a => memRead t.mem a = memRead s.mem a
  | .slot k => t.stack[k] = s.stack[k]
  | .sp => t.sp = s.sp
  | .dt => t.dt = s.dt
  | .st => t.st = s.st
  | .cell y x => cell t.fb y x = cell s.fb y x
  | .key k => keyDown t k = keyDown s k
  | .drawFlag => t.drawFlag = s.drawFlag
  | .beepFlag => t.beepFlag = s.beepFlag
  | .rnd => t.rndQueue = s.rndQueue ∧ t.rndIndex = s.rndIndex

/-- The frame: every piece of the state but those the predicate names is unchanged (R63). -/
def unchangedBut (written : Piece → Prop) (s t : State) : Prop := ∀ p, ¬ written p → samePiece s t p

/-- The pieces a list names. -/
def pieces (ps : List Piece) : Piece → Prop := fun p => p ∈ ps

/-- The one effect of the timer phase, and the hand-over of the input `rnd`: `dt` and `st` are one less or
still 0, `beepFlag` is set if `st` was 1, nothing else changes (R66). -/
def ticked (s t : State) : Prop :=
  t.dt.toNat = s.dt.toNat - 1 ∧ t.st.toNat = s.st.toNat - 1 ∧
  (t.beepFlag = true ↔ s.beepFlag = true ∨ s.st = 1) ∧
  unchangedBut (pieces [.dt, .st, .beepFlag, .rnd]) s t

/-- Every member of the state but memory at its reset value (R24). -/
def atResetValues (s : State) : Prop :=
  (∀ r, readReg s r = 0) ∧ s.I = 0 ∧ s.pc = 0x200 ∧ (∀ k : Fin 16, s.stack[k] = 0) ∧ s.sp = 0 ∧
  s.dt = 0 ∧ s.st = 0 ∧ (∀ y x, cell s.fb y x = false) ∧ (∀ k, keyDown s k = false) ∧
  s.drawFlag = true ∧ s.beepFlag = false

/-- A byte at its reset value: FONT at 0x000 to 0x04F, 0 above (R24, R27). -/
def byteAtReset (m : Memory) (a : Nat) : Prop :=
  (∀ h : a < font.length, memRead m a = font[a]) ∧ (font.length ≤ a → memRead m a = 0)

/-- The general registers an instruction may write: its destinations, and VF for the seven that write it as
a flag (R12). -/
def mayWriteReg : Instr → Reg → Prop
  | .cls, _ => False
  | .ret, _ => False
  | .jp _, _ => False
  | .call _, _ => False
  | .seVxNn _ _, _ => False
  | .sneVxNn _ _, _ => False
  | .seVxVy _ _, _ => False
  | .ldVxNn x _, r => r = x
  | .addVxNn x _, r => r = x
  | .ldVxVy x _, r => r = x
  | .orVxVy x _, r => r = x
  | .andVxVy x _, r => r = x
  | .xorVxVy x _, r => r = x
  | .addVxVy x _, r => r = x ∨ r = 15
  | .subVxVy x _, r => r = x ∨ r = 15
  | .shrVx x _, r => r = x ∨ r = 15
  | .subnVxVy x _, r => r = x ∨ r = 15
  | .shlVx x _, r => r = x ∨ r = 15
  | .sneVxVy _ _, _ => False
  | .ldI _, _ => False
  | .jpV0 _, _ => False
  | .rndVxNn x _, r => r = x
  | .drw _ _ _, r => r = 15
  | .skp _, _ => False
  | .sknp _, _ => False
  | .ldVxDt x, r => r = x
  | .ldVxK x, r => r = x
  | .ldDtVx _, _ => False
  | .ldStVx _, _ => False
  | .addIVx _, r => r = 15
  | .ldFVx _, _ => False
  | .ldBVx _, _ => False
  | .ldMemVx _, _ => False
  | .ldVxMem x, r => r ≤ x

/-- The error an access of `n` bytes at `base` raises (R36). -/
def rangeError (base n : Nat) : Option CoreError :=
  if n = 0 ∨ base + n - 1 ≤ 0xFFF then none else some (.memoryOutOfRange (max base 0x1000))

/-- The error an instruction's own rule raises in a state: the table of R120, less fetch and decode. -/
def ownError (i : Instr) (s : State) : Option CoreError :=
  match i with
  | .cls => none
  | .ret => if s.sp = 0 then some .stackUnderflow else none
  | .jp _ => none
  | .call _ => if s.sp = 16 then some .stackOverflow else none
  | .seVxNn _ _ => none
  | .sneVxNn _ _ => none
  | .seVxVy _ _ => none
  | .ldVxNn _ _ => none
  | .addVxNn _ _ => none
  | .ldVxVy _ _ => none
  | .orVxVy _ _ => none
  | .andVxVy _ _ => none
  | .xorVxVy _ _ => none
  | .addVxVy _ _ => none
  | .subVxVy _ _ => none
  | .shrVx _ _ => none
  | .subnVxVy _ _ => none
  | .shlVx _ _ => none
  | .sneVxVy _ _ => none
  | .ldI _ => none
  | .jpV0 _ => none
  | .rndVxNn _ _ => none
  | .drw _ _ n => rangeError s.I.toNat n.val
  | .skp _ => none
  | .sknp _ => none
  | .ldVxDt _ => none
  | .ldVxK _ => none
  | .ldDtVx _ => none
  | .ldStVx _ => none
  | .addIVx _ => none
  | .ldFVx _ => none
  | .ldBVx _ => rangeError s.I.toNat 3
  | .ldMemVx x => rangeError s.I.toNat (x.val + 1)
  | .ldVxMem x => rangeError s.I.toNat (x.val + 1)

/-- The sprite bit a DXYN lays over a cell: bit `7 - c` of the byte at `I + r`, where `r` and `c` are the
cell's row and column counted from the sprite's corner, wrapped; 0 outside the sprite (R39, R106). -/
def spriteBit (s : State) (x y : Reg) (n : RowCount) (row : Fin 32) (col : Fin 64) : Bool :=
  let r := (row.val + 256 - (readReg s y).toNat) % 32
  let c := (col.val + 256 - (readReg s x).toNat) % 64
  decide (r < n.val) && decide (c < 8) && (memRead s.mem (s.I.toNat + r)).getLsbD (7 - c)

/-- The invariant of every reachable state (R26): memory is in canonical form, `pc` is at most 0x10FE, and
every live stack entry is an address a 2NNN was fetched from (R72). -/
abbrev StateInv (s : State) : Prop :=
  Memory.wf s.mem ∧ s.pc.toNat ≤ 0x10FE ∧ ∀ k : Fin 16, k.val < s.sp.val → (s.stack[k]).toNat ≤ 0xFFE

/-- A run of `n` steps in which no step reported an error, and the state it leaves (R129). -/
def errorFreeRun (n : Nat) (s : State) : Option State :=
  match core.run n s with
  | .next t => some t
  | .fault _ => none
  | .refused _ => none

/-- The spec's own definition of an ended run: `pc` addresses a 1NNN that jumps to itself (R154). -/
def atSelfJump (s : State) : Bool :=
  match fetchDecode s with
  | .ok (.jp nnn) => addrOperand nnn == s.pc
  | _ => false

end Sys2Proof.Machine
end

