-- ==== Sys2Proof/Certificates/Slice0/Obligations.lean ====
section
/-!
DEFINITION. The statements for the provers. Each docstring names the rule of spec/ it formalises. A clause that
rests on one of the spec's own decisions (spec/92_eei_decisions.md D<n>) or on the model's (a log entry)
says so.
-/

open Sys2Proof Sys2Proof.Machine

/-! Reset and load. -/

/-- R24: after `reset`, and after `load` except for the ROM bytes, every member of the state has its reset value.
FONT stands for whatever table the configuration holds (log entry 4); no value of it is used. -/
def Obligations.ResetAndLoadLeaveTheResetTable : Prop :=
  (atResetValues State.reset ∧ ∀ a, byteAtReset State.reset.mem a) ∧
  ∀ (s : State) (rom : List Byte),
    (atResetValues (applyHostOp .reset s).1 ∧ ∀ a, byteAtReset (applyHostOp .reset s).1.mem a) ∧
    (rom.length ≤ 3584 →
      atResetValues (applyHostOp (.load rom) s).1 ∧
      ∀ a, (a < 0x200 ∨ 0x200 + rom.length ≤ a) → byteAtReset (applyHostOp (.load rom) s).1.mem a)

/-- R141: `reset` does not read the core's previous state, and a second one changes nothing. The model's own
fields for the input `rnd` are the host's and stay (log entry 10). -/
def Obligations.ResetIgnoresThePreviousState : Prop :=
  ∀ s s' : State,
    unchangedBut (pieces [.rnd]) (applyHostOp .reset s).1 (applyHostOp .reset s').1 ∧
    samePiece s (applyHostOp .reset s).1 .rnd ∧
    applyHostOp .reset (applyHostOp .reset s).1 = applyHostOp .reset s

/-- R142: a ROM of at most 3584 bytes stands at 0x200 upward, the rest is the reset state, the outcome is `Ok`. -/
def Obligations.LoadPlacesTheRom : Prop :=
  ∀ (s : State) (rom : List Byte), rom.length ≤ 3584 →
    (applyHostOp (.load rom) s).2 = none ∧
    (∀ (k : Nat) (h : k < rom.length), memRead (applyHostOp (.load rom) s).1.mem (0x200 + k) = rom[k]) ∧
    (∀ a, a < 0x200 ∨ 0x200 + rom.length ≤ a →
      memRead (applyHostOp (.load rom) s).1.mem a = memRead (applyHostOp .reset s).1.mem a) ∧
    ∃ m, (applyHostOp (.load rom) s).1 = { (applyHostOp .reset s).1 with mem := m }

/-- R143: a longer ROM leaves exactly the reset state and reports `RomTooLarge`. That a step then reports
`UnknownOpcode(0x0000)` is the spec's own inference, marked derived from R53 in R143; it rests on the strict
matching of its decision D8 (log entry 9). -/
def Obligations.LoadOfTooLargeRomOnlyResets : Prop :=
  ∀ (s : State) (rom : List Byte), 3584 < rom.length →
    applyHostOp (.load rom) s = ((applyHostOp .reset s).1, some .romTooLarge) ∧
    ∃ f, step (applyHostOp (.load rom) s).1 = .fault f ∧ f.error = .unknownOpcode 0x0000

/-! Encoding. -/

/-- Words of spec/95_test_vectors.md V1, one of every format and three unknown ones (R50, R52). That 0x5AB1 is
unknown is the spec's decision D8 (R51, log entry 9). -/
def Obligations.SampleWordsDecode : Prop :=
  decodeWord 0x00EE = some .ret ∧ decodeWord 0xA2F0 = some (.ldI 0x2F0) ∧
  decodeWord 0xC7A5 = some (.rndVxNn 7 0xA5) ∧ decodeWord 0x5AB0 = some (.seVxVy 0xA 0xB) ∧
  decodeWord 0xD123 = some (.drw 1 2 3) ∧ decodeWord 0xEAA1 = some (.sknp 0xA) ∧
  decodeWord 0x0000 = none ∧ decodeWord 0x5AB1 = none ∧ decodeWord 0xFA75 = none

/-- R47, R50: the word of every instruction decodes to it, and so do its two bytes, whatever follows them. -/
def Obligations.EncodedInstructionsDecodeToThemselves : Prop :=
  ∀ i : Instr, decodeWord (encode i) = some i ∧
    ∀ rest : List Byte, decode (wordBytes (encode i) ++ rest) = .ok (i, rest)

/-- R49, R50: a word that decodes is the word of what it decodes to: no bit of it is dropped. For 8XY6 and 8XYE
this is the model's choice: R54 lets any Y decode to the same instruction, and the model's constructors keep the
ignored Y (DESIGN CHOICE, log entry 12). -/
def Obligations.DecodedWordsEncodeToThemselves : Prop :=
  ∀ (w : Word) (i : Instr), decodeWord w = some i → encode i = w

/-- R52 with R51's strict matching (the spec's decision D8): the unknown words are exactly those of the table. -/
def Obligations.UnknownWordsAreThoseOfTheTable : Prop :=
  ∀ w : Word, decodeWord w = none ↔
    (w.toNat / 4096 = 0x0 ∧ w ≠ 0x00E0 ∧ w ≠ 0x00EE) ∨
    (w.toNat / 4096 = 0x5 ∧ w.toNat % 16 ≠ 0) ∨
    (w.toNat / 4096 = 0x8 ∧ w.toNat % 16 ∈ [0x8, 0x9, 0xA, 0xB, 0xC, 0xD, 0xF]) ∨
    (w.toNat / 4096 = 0x9 ∧ w.toNat % 16 ≠ 0) ∨
    (w.toNat / 4096 = 0xE ∧ w.toNat % 256 ∉ [0x9E, 0xA1]) ∨
    (w.toNat / 4096 = 0xF ∧
      w.toNat % 256 ∉ [0x07, 0x0A, 0x15, 0x18, 0x1E, 0x29, 0x33, 0x55, 0x65])

/-! The step. -/

/-- R60, R61: where the two bytes at `pc` decode, high byte first, the step is `exec` of the instruction and then
the end of the step: the timer phase, and the step's random byte used up (log entry 2). An error of `exec` is a
fault that carries the state (log entry 1); that the timer phase runs after it too is the spec's decision D6
(log entry 9). -/
def Obligations.StepRunsTheDecodedInstruction : Prop :=
  ∀ (s : State) (i : Instr), s.pc.toNat + 1 ≤ 0xFFF →
    decodeWord (composeWord (memRead s.mem s.pc.toNat) (memRead s.mem (s.pc.toNat + 1))) = some i →
    (∀ u, exec i s = .next u → step s = .next (consumeRnd (timerPhase u))) ∧
    (∀ g, exec i s = .fault g →
      ∃ f, step s = .fault f ∧ f.error = g.error ∧ f.after = consumeRnd (timerPhase g.after))

/-- R66: the timer phase ends every step, after an error of phases 1 to 3 too (the spec's decision D6). -/
def Obligations.TimerPhaseEndsEveryStep : Prop :=
  ∀ s : State,
    (∀ u, fetchDecodeExecute s = .next u → ∃ t, step s = .next t ∧ ticked u t) ∧
    (∀ g, fetchDecodeExecute s = .fault g →
      ∃ f, step s = .fault f ∧ f.error = g.error ∧ ticked g.after f.after)

/-- R154 "Every state has a next step": a step reports `Ok` or one of the errors, and no instruction is
refused. -/
def Obligations.EveryStepIsOkOrAnError : Prop :=
  (∀ s : State, (∃ t, step s = .next t) ∨ ∃ f, step s = .fault f) ∧
  ∀ (i : Instr) (s : State), (∃ t, exec i s = .next t) ∨ ∃ f, exec i s = .fault f

/-- R120, R126: an instruction completes exactly where its own rule raises nothing, and raises exactly the error
of its rule, over the unchanged state (the spec's decisions D4, D5). -/
def Obligations.InstructionsRaiseExactlyTheirOwnError : Prop :=
  ∀ (i : Instr) (s : State),
    ((∃ t, exec i s = .next t) ↔ ownError i s = none) ∧
    (∀ f, exec i s = .fault f → ownError i s = some f.error ∧ f.after = s)

/-- R65, R128 (the spec's decisions D5, D6): a step that reports an error changes nothing but what its timer phase
changes, `pc` included; the last field is the model's own (log entry 2). -/
def Obligations.ErroringStepOnlyTicksTimers : Prop :=
  ∀ (s : State) (f : Fault), step s = .fault f → ticked s f.after

/-- R129, R148: the step after an erroring one reports the same error (the spec's decisions D5, D6, D20). -/
def Obligations.ErrorsRepeat : Prop :=
  ∀ (s : State) (f : Fault), step s = .fault f →
    ∃ g, step f.after = .fault g ∧ g.error = f.error

/-- R61, R36 (the spec's decision D4): a fetch raises `MemoryOutOfRange` exactly when `pc` is 0xFFF or more, with
the lowest address outside memory. -/
def Obligations.FetchBeyondMemoryFaults : Prop :=
  ∀ s : State,
    (0xFFF ≤ s.pc.toNat →
      ∃ f, step s = .fault f ∧ f.error = .memoryOutOfRange (max s.pc.toNat 0x1000)) ∧
    (s.pc.toNat < 0xFFF →
      ∀ f, fetchDecode s = .error f →
        f.error = .unknownOpcode (memRead2 s.mem s.pc.toNat))

/-- R62, R121: a word that matches no row makes the step report `UnknownOpcode` with that word; only the timers
tick (the spec's decision D6). -/
def Obligations.UnknownWordFaults : Prop :=
  ∀ (s : State) (w : Word), s.pc.toNat < 0xFFF →
    w = memRead s.mem s.pc.toNat ++ memRead s.mem (s.pc.toNat + 1) → decodeWord w = none →
    ∃ f, step s = .fault f ∧ f.error = .unknownOpcode w ∧ ticked s f.after

/-- The model's `withFetchWord` (log entry 8): where a fetch is possible, the next step fetches the placed word. -/
def Obligations.PlacedWordIsFetched : Prop :=
  ∀ (s : State) (w : Nat), s.pc.toNat < 0xFFF →
    (∀ i, decodeTableWord 16 w = some i →
      fetchDecode (s.withFetchWord 16 w) = .ok i) ∧
    (decodeTableWord 16 w = none →
      ∃ f, fetchDecode (s.withFetchWord 16 w) = .error f ∧ f.error = .unknownOpcode (BitVec.ofNat 16 w)) ∧
    unchangedBut (pieces [.mem s.pc.toNat, .mem (s.pc.toNat + 1)]) s (s.withFetchWord 16 w)

/-! Control transfer. -/

/-- R71: 1NNN goes to NNN and changes nothing else. -/
def Obligations.JumpGoesToItsAddress : Prop :=
  ∀ (s : State) (nnn : Addr12), ∃ t, exec (.jp nnn) s = .next t ∧
    t.pc.toNat = nnn.toNat ∧ unchangedBut (pieces [.pc]) s t

/-- R77: BNNN goes to NNN + V0, not reduced to 12 bits (the spec's decision D11), and changes nothing else. -/
def Obligations.IndexedJumpAddsV0 : Prop :=
  ∀ (s : State) (nnn : Addr12), ∃ t, exec (.jpV0 nnn) s = .next t ∧
    t.pc.toNat = nnn.toNat + (readReg s 0).toNat ∧ unchangedBut (pieces [.pc]) s t

/-- R72: 2NNN pushes its own address and goes to NNN; with sixteen entries pushed it raises `StackOverflow`
over the unchanged state, `pc` included (the spec's decision D5). That the entry goes to slot `sp` is its
decision D15 (log entry 9). -/
def Obligations.CallPushesItsOwnAddress : Prop :=
  ∀ (s : State) (nnn : Addr12),
    (∀ h : s.sp.val < 16, ∃ t, exec (.call nnn) s = .next t ∧
      t.stack[s.sp.val] = s.pc ∧ t.sp.val = s.sp.val + 1 ∧ t.pc.toNat = nnn.toNat ∧
      unchangedBut (pieces [.slot ⟨s.sp.val, h⟩, .sp, .pc]) s t) ∧
    (s.sp.val = 16 → exec (.call nnn) s = .fault (.stackOverflow s))

/-- R70: 00EE goes to the newest entry plus 2 and leaves the slot as it was; with nothing pushed it raises
`StackUnderflow` over the unchanged state. The spec's decisions in it (log entry 9): the sum is modulo 65536 (D11),
the entry is slot `sp - 1` and keeps its value (D15), the underflow changes nothing, `pc` included (D5). -/
def Obligations.ReturnPopsAndAddsTwo : Prop :=
  ∀ s : State,
    (∀ _ : 0 < s.sp.val, ∃ t, exec .ret s = .next t ∧
      t.pc.toNat = (s.stack[s.sp.val - 1].toNat + 2) % 65536 ∧ t.sp.val = s.sp.val - 1 ∧
      unchangedBut (pieces [.sp, .pc]) s t) ∧
    (s.sp.val = 0 → exec .ret s = .fault (.stackUnderflow s))

/-- The round trip of R70: 2NNN, then anything that leaves the stack as it is, then 00EE, goes to the call's
address plus 2 with the stack pointer restored. The sum is modulo 65536 (the spec's decision D11). -/
def Obligations.ReturnUndoesCall : Prop :=
  ∀ (s t u : State) (nnn : Addr12), exec (.call nnn) s = .next t →
    u.stack = t.stack → u.sp = t.sp →
    ∃ v, exec .ret u = .next v ∧ v.pc = s.pc + 2 ∧ v.sp = s.sp

/-- R73 to R76: each skip adds 4 to `pc` if its condition holds, else 2, and changes nothing else. -/
def Obligations.SkipsAddFourOrTwo : Prop :=
  ∀ (s : State) (x y : Reg) (nn : Byte),
    (∃ t, exec (.seVxNn x nn) s = .next t ∧ unchangedBut (pieces [.pc]) s t ∧
      t.pc = if (readReg s x).toNat = nn.toNat then s.pc + 4 else s.pc + 2) ∧
    (∃ t, exec (.sneVxNn x nn) s = .next t ∧ unchangedBut (pieces [.pc]) s t ∧
      t.pc = if (readReg s x).toNat = nn.toNat then s.pc + 2 else s.pc + 4) ∧
    (∃ t, exec (.seVxVy x y) s = .next t ∧ unchangedBut (pieces [.pc]) s t ∧
      t.pc = if (readReg s x).toNat = (readReg s y).toNat then s.pc + 4 else s.pc + 2) ∧
    (∃ t, exec (.sneVxVy x y) s = .next t ∧ unchangedBut (pieces [.pc]) s t ∧
      t.pc = if (readReg s x).toNat = (readReg s y).toNat then s.pc + 2 else s.pc + 4)

/-! Load, arithmetic, logic, shift, random. -/

/-- R80 to R82: the byte or register loaded, the sum modulo 256 without a flag; nothing but VX and `pc` changes. -/
def Obligations.LoadsAndByteAddWriteOnlyVX : Prop :=
  ∀ (s : State) (x y : Reg) (nn : Byte),
    (∃ t, exec (.ldVxNn x nn) s = .next t ∧ readReg t x = nn ∧
      t.pc = s.pc + 2 ∧ unchangedBut (pieces [.reg x, .pc]) s t) ∧
    (∃ t, exec (.addVxNn x nn) s = .next t ∧
      (readReg t x).toNat = ((readReg s x).toNat + nn.toNat) % 256 ∧
      t.pc = s.pc + 2 ∧ unchangedBut (pieces [.reg x, .pc]) s t) ∧
    (∃ t, exec (.ldVxVy x y) s = .next t ∧ readReg t x = readReg s y ∧
      t.pc = s.pc + 2 ∧ unchangedBut (pieces [.reg x, .pc]) s t)

/-- R83 to R85: OR, AND and exclusive OR of every bit; nothing but VX and `pc` changes, VF in particular. -/
def Obligations.LogicWritesOnlyVX : Prop :=
  ∀ (s : State) (x y : Reg),
    (∃ t, exec (.orVxVy x y) s = .next t ∧
      (∀ k, (readReg t x).getLsbD k = ((readReg s x).getLsbD k || (readReg s y).getLsbD k)) ∧
      t.pc = s.pc + 2 ∧ unchangedBut (pieces [.reg x, .pc]) s t) ∧
    (∃ t, exec (.andVxVy x y) s = .next t ∧
      (∀ k, (readReg t x).getLsbD k = ((readReg s x).getLsbD k && (readReg s y).getLsbD k)) ∧
      t.pc = s.pc + 2 ∧ unchangedBut (pieces [.reg x, .pc]) s t) ∧
    (∃ t, exec (.xorVxVy x y) s = .next t ∧
      (∀ k, (readReg t x).getLsbD k = ((readReg s x).getLsbD k ^^ (readReg s y).getLsbD k)) ∧
      t.pc = s.pc + 2 ∧ unchangedBut (pieces [.reg x, .pc]) s t)

/-- R86: the sum modulo 256 in VX; VF is 1 if the exact sum is above 255, else 0; with X = 15 the sum overwrites
the flag (the spec's decision D7). -/
def Obligations.AddReportsCarry : Prop :=
  ∀ (s : State) (x y : Reg), ∃ t, exec (.addVxVy x y) s = .next t ∧
    (readReg t x).toNat = ((readReg s x).toNat + (readReg s y).toNat) % 256 ∧
    (x ≠ 15 → (readReg t 15).toNat = if (readReg s x).toNat + (readReg s y).toNat > 255 then 1 else 0) ∧
    t.pc = s.pc + 2 ∧ unchangedBut (pieces [.reg x, .reg 15, .pc]) s t

/-- R87, R89: the difference modulo 256 in VX; VF is 1 if no borrow was needed, equality included, else 0; with
X = 15 the difference overwrites the flag (the spec's decision D7). -/
def Obligations.SubtractionsReportNotBorrow : Prop :=
  ∀ (s : State) (x y : Reg),
    (∃ t, exec (.subVxVy x y) s = .next t ∧
      (readReg t x).toNat = ((readReg s x).toNat + 256 - (readReg s y).toNat) % 256 ∧
      (x ≠ 15 → (readReg t 15).toNat = if (readReg s y).toNat > (readReg s x).toNat then 0 else 1) ∧
      t.pc = s.pc + 2 ∧ unchangedBut (pieces [.reg x, .reg 15, .pc]) s t) ∧
    (∃ t, exec (.subnVxVy x y) s = .next t ∧
      (readReg t x).toNat = ((readReg s y).toNat + 256 - (readReg s x).toNat) % 256 ∧
      (x ≠ 15 → (readReg t 15).toNat = if (readReg s x).toNat > (readReg s y).toNat then 0 else 1) ∧
      t.pc = s.pc + 2 ∧ unchangedBut (pieces [.reg x, .reg 15, .pc]) s t)

/-- R88, R90: VX shifted by one place, VF the bit shifted out, Y ignored; with X = 15 the result overwrites the
flag (the spec's decision D7). -/
def Obligations.ShiftsReportTheBitShiftedOut : Prop :=
  ∀ (s : State) (x y : Reg),
    (∃ t, exec (.shrVx x y) s = .next t ∧
      (readReg t x).toNat = (readReg s x).toNat / 2 ∧
      (x ≠ 15 → (readReg t 15).toNat = (readReg s x).toNat % 2) ∧
      t.pc = s.pc + 2 ∧ unchangedBut (pieces [.reg x, .reg 15, .pc]) s t) ∧
    (∃ t, exec (.shlVx x y) s = .next t ∧
      (readReg t x).toNat = (readReg s x).toNat * 2 % 256 ∧
      (x ≠ 15 → (readReg t 15).toNat = (readReg s x).toNat / 128) ∧
      t.pc = s.pc + 2 ∧ unchangedBut (pieces [.reg x, .reg 15, .pc]) s t) ∧
    (∀ y', exec (.shrVx x y) s = exec (.shrVx x y') s ∧ exec (.shlVx x y) s = exec (.shlVx x y') s)

/-- R91: CXNN writes the step's random byte under the mask; whatever the byte, no bit outside NN is set; every
byte the host supplies is taken (the spec's decision D2; log entry 2). -/
def Obligations.RandomByteIsMasked : Prop :=
  ∀ (s : State) (x : Reg) (nn : Byte),
    (∃ t, exec (.rndVxNn x nn) s = .next t ∧
      (∀ k, (readReg t x).getLsbD k = true → nn.getLsbD k = true) ∧
      t.pc = s.pc + 2 ∧ unchangedBut (pieces [.reg x, .pc]) s t) ∧
    (∀ rnd, ∃ t, exec (.rndVxNn x nn) (supplyRnd rnd s) = .next t ∧ readReg t x = rnd &&& nn)

/-- R91, R137: a host's `step(rnd)` that runs a CXNN leaves `rnd & NN` in VX (the spec's decision D2; log
entry 2). -/
def Obligations.HostStepSuppliesTheRandomByte : Prop :=
  ∀ (s : State) (rnd : Byte) (x : Reg) (nn : Byte), fetchDecode s = .ok (.rndVxNn x nn) →
    readReg (applyHostOp (.step rnd) s).1 x = rnd &&& nn ∧ (applyHostOp (.step rnd) s).2 = none ∧
    (applyHostOp (.step rnd) s).1.rndQueue = s.rndQueue

/-! Index register and memory transfer. -/

/-- R95: ANNN. -/
def Obligations.LoadIndexWritesOnlyI : Prop :=
  ∀ (s : State) (nnn : Addr12), ∃ t, exec (.ldI nnn) s = .next t ∧
    t.I.toNat = nnn.toNat ∧ t.pc = s.pc + 2 ∧ unchangedBut (pieces [.I, .pc]) s t

/-- R96: FX1E adds the whole register to `I` modulo 65536, VF is 1 if the exact sum is above 0xFFF, else 0 (the
spec's decision D11); the operand is sampled before VF is written (D7). -/
def Obligations.AddIndexReportsOverflow : Prop :=
  ∀ (s : State) (x : Reg), ∃ t, exec (.addIVx x) s = .next t ∧
    t.I.toNat = (s.I.toNat + (readReg s x).toNat) % 65536 ∧
    (readReg t 15).toNat = (if s.I.toNat + (readReg s x).toNat > 0xFFF then 1 else 0) ∧
    t.pc = s.pc + 2 ∧ unchangedBut (pieces [.reg 15, .I, .pc]) s t

/-- R97: FX29 writes five times the whole register (the spec's decision D11). -/
def Obligations.FontLookupMultipliesByFive : Prop :=
  ∀ (s : State) (x : Reg), ∃ t, exec (.ldFVx x) s = .next t ∧
    t.I.toNat = (readReg s x).toNat * 5 ∧ t.pc = s.pc + 2 ∧ unchangedBut (pieces [.I, .pc]) s t

/-- R98: FX33 stores the three decimal digits at `I`; where `I + 2` is above 0xFFF it raises `MemoryOutOfRange`
over the unchanged state (the spec's decisions D4, D5). -/
def Obligations.DecimalDigitsAreStored : Prop :=
  ∀ (s : State) (x : Reg),
    (s.I.toNat + 2 ≤ 0xFFF → ∃ t, exec (.ldBVx x) s = .next t ∧
      (memRead t.mem s.I.toNat).toNat = (readReg s x).toNat / 100 ∧
      (memRead t.mem (s.I.toNat + 1)).toNat = (readReg s x).toNat / 10 % 10 ∧
      (memRead t.mem (s.I.toNat + 2)).toNat = (readReg s x).toNat % 10 ∧ t.pc = s.pc + 2 ∧
      unchangedBut (pieces [.mem s.I.toNat, .mem (s.I.toNat + 1), .mem (s.I.toNat + 2), .pc]) s t) ∧
    (s.I.toNat + 2 > 0xFFF →
      exec (.ldBVx x) s = .fault (.memoryOutOfRange (max s.I.toNat 0x1000) s))

/-- R99: FX55 stores V0 to VX at `I` upward and adds X + 1 to `I`; where `I + X` is above 0xFFF it raises
`MemoryOutOfRange` over the unchanged state (the spec's decisions D4, D5). -/
def Obligations.RegistersAreStored : Prop :=
  ∀ (s : State) (x : Reg),
    (s.I.toNat + x.val ≤ 0xFFF → ∃ t, exec (.ldMemVx x) s = .next t ∧
      (∀ r : Reg, r ≤ x → memRead t.mem (s.I.toNat + r.val) = readReg s r) ∧
      t.I.toNat = s.I.toNat + x.val + 1 ∧ t.pc = s.pc + 2 ∧
      unchangedBut (fun p => p ∈ [.I, .pc] ∨ ∃ r : Reg, r ≤ x ∧ p = .mem (s.I.toNat + r.val)) s t) ∧
    (s.I.toNat + x.val > 0xFFF →
      exec (.ldMemVx x) s = .fault (.memoryOutOfRange (max s.I.toNat 0x1000) s))

/-- R100: FX65 loads V0 to VX from `I` upward and adds X + 1 to `I`; where `I + X` is above 0xFFF it raises
`MemoryOutOfRange` over the unchanged state (the spec's decisions D4, D5). -/
def Obligations.RegistersAreLoaded : Prop :=
  ∀ (s : State) (x : Reg),
    (s.I.toNat + x.val ≤ 0xFFF → ∃ t, exec (.ldVxMem x) s = .next t ∧
      (∀ r : Reg, r ≤ x → readReg t r = memRead s.mem (s.I.toNat + r.val)) ∧
      t.I.toNat = s.I.toNat + x.val + 1 ∧ t.pc = s.pc + 2 ∧
      unchangedBut (fun p => p ∈ [.I, .pc] ∨ ∃ r : Reg, r ≤ x ∧ p = .reg r) s t) ∧
    (s.I.toNat + x.val > 0xFFF →
      exec (.ldVxMem x) s = .fault (.memoryOutOfRange (max s.I.toNat 0x1000) s))

/-- R99, R100: what FX55 stored, FX65 at the same address loads, into the same registers. -/
def Obligations.StoreThenLoadRestoresRegisters : Prop :=
  ∀ (s t u : State) (x : Reg), exec (.ldMemVx x) s = .next t → u.mem = t.mem → u.I = s.I →
    ∃ v, exec (.ldVxMem x) u = .next v ∧ (∀ r : Reg, r ≤ x → readReg v r = readReg s r) ∧ v.I = t.I

/-- R43: a store is seen by the next fetch: after an FX55 that stored V0 and V1 at an address, a fetch there gives
the word V0:V1. -/
def Obligations.StoredBytesAreFetched : Prop :=
  ∀ (s t u : State) (x : Reg) (i : Instr), exec (.ldMemVx x) s = .next t → 1 ≤ x.val →
    u.mem = t.mem → u.pc = s.I → decodeWord (composeWord (readReg s 0) (readReg s 1)) = some i →
    fetchDecode u = .ok i

/-! Display. -/

/-- R105: 00E0 clears every cell and sets `drawFlag`, whatever was there (the spec's decision D14). -/
def Obligations.ClearScreenClearsEveryCell : Prop :=
  ∀ s : State, ∃ t, exec .cls s = .next t ∧ (∀ y x, cell t.fb y x = false) ∧ t.drawFlag = true ∧
    t.pc = s.pc + 2 ∧ unchangedBut (fun p => p ∈ [.drawFlag, .pc] ∨ ∃ y x, p = .cell y x) s t

/-- R106: DXYN exclusive-ORs the sprite's bits over the cells, each pixel's coordinates wrapped (D21); VF is 1 if some bit met a
cell that was 1, else 0; `drawFlag` is set (D14). Coordinates are the registers' values before VF is written
(D7). A sprite that leaves memory raises `MemoryOutOfRange` over the unchanged state (D4, D5). -/
def Obligations.DrawXorsTheSprite : Prop :=
  ∀ (s : State) (x y : Reg) (n : RowCount),
    ((n.val = 0 ∨ s.I.toNat + n.val - 1 ≤ 0xFFF) → ∃ t, exec (.drw x y n) s = .next t ∧
      (∀ row col, cell t.fb row col = (cell s.fb row col ^^ spriteBit s x y n row col)) ∧
      ((readReg t 15).toNat = 0 ∨ (readReg t 15).toNat = 1) ∧
      ((readReg t 15).toNat = 1 ↔
        ∃ row col, spriteBit s x y n row col = true ∧ cell s.fb row col = true) ∧
      t.drawFlag = true ∧ t.pc = s.pc + 2 ∧
      unchangedBut (fun p => p ∈ [.reg 15, .drawFlag, .pc] ∨ ∃ row col, p = .cell row col) s t) ∧
    (¬ (n.val = 0 ∨ s.I.toNat + n.val - 1 ≤ 0xFFF) →
      exec (.drw x y n) s = .fault (.memoryOutOfRange (max s.I.toNat 0x1000) s))

/-- R106 (g), with C7's condition: the same sprite drawn again at the same place restores the framebuffer, and VF
is then 1 exactly when a sprite bit lies on a cell that was 0 before the first draw. Each pixel wraps (the spec's
decision D21). -/
def Obligations.DrawingTwiceRestoresTheFramebuffer : Prop :=
  ∀ (s t u v : State) (x y : Reg) (n : RowCount), exec (.drw x y n) s = .next t →
    u.fb = t.fb → u.mem = s.mem → u.I = s.I → readReg u x = readReg s x → readReg u y = readReg s y →
    exec (.drw x y n) u = .next v →
    v.fb = s.fb ∧
    (readReg v 15 = 1 ↔ ∃ row col, spriteBit s x y n row col = true ∧ cell s.fb row col = false)

/-! Keypad and timers. -/

/-- R110, R111: EX9E and EXA1 test the key of the register's low four bits (the spec's decision D9). -/
def Obligations.KeySkipsTestTheKey : Prop :=
  ∀ (s : State) (x : Reg),
    (∃ t, exec (.skp x) s = .next t ∧ unchangedBut (pieces [.pc]) s t ∧
      t.pc = if s.keys[(readReg s x).toNat % 16] = true then s.pc + 4 else s.pc + 2) ∧
    (∃ t, exec (.sknp x) s = .next t ∧ unchangedBut (pieces [.pc]) s t ∧
      t.pc = if s.keys[(readReg s x).toNat % 16] = true then s.pc + 2 else s.pc + 4)

/-- R113: FX0A takes the least pressed key; with none pressed it changes nothing and reports no error (level, not
edge: the spec's decision D18). -/
def Obligations.KeyWaitTakesTheLeastPressedKey : Prop :=
  ∀ (s : State) (x : Reg),
    (∀ k : Key, s.keys[k] = true → (∀ j : Key, j < k → s.keys[j] = false) →
      ∃ t, exec (.ldVxK x) s = .next t ∧ (readReg t x).toNat = k.val ∧ t.pc = s.pc + 2 ∧
        unchangedBut (pieces [.reg x, .pc]) s t) ∧
    ((∀ k : Key, s.keys[k] = false) → exec (.ldVxK x) s = .next s)

/-- R113 (a): a step of an unanswered FX0A leaves `pc` where it is, and the timers tick (the model's own
fields: log entry 2). -/
def Obligations.UnansweredKeyWaitOnlyTicks : Prop :=
  ∀ (s : State) (x : Reg), fetchDecode s = .ok (.ldVxK x) → (∀ k : Key, s.keys[k] = false) →
    ∃ t, step s = .next t ∧ ticked s t

/-- R112, R114, R115: FX07 reads `dt`, FX15 writes `dt`, FX18 writes `st`; nothing else but `pc` changes. -/
def Obligations.TimerInstructionsMoveTheTimers : Prop :=
  ∀ (s : State) (x : Reg),
    (∃ t, exec (.ldVxDt x) s = .next t ∧ readReg t x = s.dt ∧ t.pc = s.pc + 2 ∧
      unchangedBut (pieces [.reg x, .pc]) s t) ∧
    (∃ t, exec (.ldDtVx x) s = .next t ∧ t.dt = readReg s x ∧ t.pc = s.pc + 2 ∧
      unchangedBut (pieces [.dt, .pc]) s t) ∧
    (∃ t, exec (.ldStVx x) s = .next t ∧ t.st = readReg s x ∧ t.pc = s.pc + 2 ∧
      unchangedBut (pieces [.st, .pc]) s t)

/-- R146, and the corner cases of R112, R114, R115: the timers tick in the step that reads or writes them. -/
def Obligations.TimersTickInTheStepThatUsesThem : Prop :=
  ∀ (s : State) (x : Reg),
    (fetchDecode s = .ok (.ldVxDt x) → ∃ t, step s = .next t ∧
      readReg t x = s.dt ∧ t.dt.toNat = s.dt.toNat - 1) ∧
    (fetchDecode s = .ok (.ldDtVx x) → ∃ t, step s = .next t ∧
      t.dt.toNat = (readReg s x).toNat - 1) ∧
    (fetchDecode s = .ok (.ldStVx x) → ∃ t, step s = .next t ∧
      t.st.toNat = (readReg s x).toNat - 1 ∧
      (t.beepFlag = true ↔ s.beepFlag = true ∨ (readReg s x).toNat = 1))

/-! Whole-machine rules. -/

/-- R10, R35: no instruction but FX33 and FX55 writes memory. -/
def Obligations.OnlyStoresWriteMemory : Prop :=
  ∀ (i : Instr) (s t : State), exec i s = .next t → (∀ x, i ≠ .ldBVx x) → (∀ x, i ≠ .ldMemVx x) →
    t.mem = s.mem

/-- R11, R12: an instruction changes no general register but its destinations, and VF where it is one of the seven
that write it as a flag. -/
def Obligations.OnlyNamedRegistersChange : Prop :=
  ∀ (i : Instr) (s t : State) (r : Reg), exec i s = .next t → ¬ mayWriteReg i r →
    readReg t r = readReg s r

/-- R13, R16, R17, R21: `I` is written only by ANNN, FX1E, FX29, FX55, FX65; `dt` only by FX15 and `st` only by FX18,
apart from the timer phase; `beepFlag` by no instruction. -/
def Obligations.OnlyTheirInstructionsWriteSpecialRegisters : Prop :=
  ∀ (i : Instr) (s t : State), exec i s = .next t →
    ((∀ n, i ≠ .ldI n) → (∀ x, i ≠ .addIVx x ∧ i ≠ .ldFVx x ∧ i ≠ .ldMemVx x ∧ i ≠ .ldVxMem x) →
      t.I = s.I) ∧
    ((∀ x, i ≠ .ldDtVx x) → t.dt = s.dt) ∧ ((∀ x, i ≠ .ldStVx x) → t.st = s.st) ∧
    t.beepFlag = s.beepFlag

/-- R15: no instruction but 2NNN and 00EE writes the stack or its pointer. -/
def Obligations.OnlyCallAndReturnWriteTheStack : Prop :=
  ∀ (i : Instr) (s t : State), exec i s = .next t → (∀ n, i ≠ .call n) → i ≠ .ret →
    t.stack = s.stack ∧ t.sp = s.sp

/-- R18, R20: no instruction but 00E0 and DXYN writes the framebuffer or `drawFlag`. -/
def Obligations.OnlyDisplayInstructionsDraw : Prop :=
  ∀ (i : Instr) (s t : State), exec i s = .next t → i ≠ .cls → (∀ x y n, i ≠ .drw x y n) →
    t.fb = s.fb ∧ t.drawFlag = s.drawFlag

/-- R19, R20, R21: no step writes `keys`, clears `drawFlag` or clears `beepFlag`, whatever its outcome. -/
def Obligations.StepsLeaveKeysAndNeverClearFlags : Prop :=
  ∀ s t : State, (step s = .next t ∨ ∃ f, step s = .fault f ∧ f.after = t) →
    t.keys = s.keys ∧ (s.drawFlag = true → t.drawFlag = true) ∧
    (s.beepFlag = true → t.beepFlag = true)

/-- R68: whether the host has cleared the two flags does not influence a step. -/
def Obligations.FlagsDoNotInfluenceSteps : Prop :=
  ∀ (s : State) (d b : Bool),
    (∀ t, step s = .next t → ∃ t', step { s with drawFlag := d, beepFlag := b } = .next t' ∧
      unchangedBut (pieces [.drawFlag, .beepFlag]) t t') ∧
    (∀ f, step s = .fault f → ∃ f', step { s with drawFlag := d, beepFlag := b } = .fault f' ∧
      f'.error = f.error ∧ unchangedBut (pieces [.drawFlag, .beepFlag]) f.after f'.after)

/-- R68, its first two sentences: `keys` is read only by EX9E, EXA1 and FX0A, and `rnd` only by CXNN. A step of any
other instruction than the three, or one that fails in fetch or decode, has with other keys the same outcome, error
included, and leaves a state that differs in the keys only; so does a step of any other instruction than CXNN, the
three key readers included, with another random input (the model's own fields, log entry 2). -/
def Obligations.InputsMatterOnlyToTheirReaders : Prop :=
  ∀ s : State,
    ((∀ i, fetchDecode s = .ok i → ∀ x, i ≠ .skp x ∧ i ≠ .sknp x ∧ i ≠ .ldVxK x) →
      ∀ keys : Vector Bool 16,
        (∀ t, step s = .next t → ∃ t', step { s with keys := keys } = .next t' ∧
          unchangedBut (fun p => ∃ j, p = .key j) t t') ∧
        (∀ f, step s = .fault f → ∃ f', step { s with keys := keys } = .fault f' ∧
          f'.error = f.error ∧ unchangedBut (fun p => ∃ j, p = .key j) f.after f'.after)) ∧
    ((∀ i, fetchDecode s = .ok i → ∀ x nn, i ≠ .rndVxNn x nn) →
      ∀ (q : List Byte) (k : Nat),
        (∀ t, step s = .next t → ∃ t', step { s with rndQueue := q, rndIndex := k } = .next t' ∧
          unchangedBut (pieces [.rnd]) t t') ∧
        (∀ f, step s = .fault f → ∃ f', step { s with rndQueue := q, rndIndex := k } = .fault f' ∧
          f'.error = f.error ∧ unchangedBut (pieces [.rnd]) f.after f'.after))

/-- R154: at a jump to itself (the spec's own definition of an ended run, decision D22) a step changes nothing but
the timers and `beepFlag`, and the run stays there (the model's own fields: log entry 2). -/
def Obligations.SelfJumpOnlyTicks : Prop :=
  ∀ s : State, atSelfJump s = true → ∃ t, step s = .next t ∧ ticked s t ∧ atSelfJump t = true

/-- R25, R137: the host's writes change what they name and nothing else, and report no error. -/
def Obligations.HostWritesChangeOnlyWhatTheyName : Prop :=
  ∀ (s : State) (keys : Vector Bool 16) (k : Key) (down : Bool),
    ((applyHostOp (.writeKeys keys) s).2 = none ∧
      (∀ j : Key, keyDown (applyHostOp (.writeKeys keys) s).1 j = keys[j]) ∧
      unchangedBut (fun p => ∃ j, p = .key j) s (applyHostOp (.writeKeys keys) s).1) ∧
    ((applyHostOp (.writeKey k down) s).2 = none ∧
      keyDown (applyHostOp (.writeKey k down) s).1 k = down ∧
      unchangedBut (pieces [.key k]) s (applyHostOp (.writeKey k down) s).1) ∧
    ((applyHostOp .clearDrawFlag s).2 = none ∧ (applyHostOp .clearDrawFlag s).1.drawFlag = false ∧
      unchangedBut (pieces [.drawFlag]) s (applyHostOp .clearDrawFlag s).1) ∧
    ((applyHostOp .clearBeepFlag s).2 = none ∧ (applyHostOp .clearBeepFlag s).1.beepFlag = false ∧
      unchangedBut (pieces [.beepFlag]) s (applyHostOp .clearBeepFlag s).1)

/-! Invariants. -/

/-- R26, R72: the invariant holds after reset. -/
def Obligations.InvariantHoldsAtReset : Prop := StateInv State.reset

/-- R26, R72: every step keeps the invariant, an erroring one too: memory in canonical form, `pc` at most 0x10FE,
every live stack entry at most 0xFFE. The memory's form is the model's (log entry 13); that a sum in `pc` is not
masked is the spec's decision D11, and that an erroring step changes nothing else its decision D5 (log entry 9). -/
def Obligations.StepKeepsTheInvariant : Prop :=
  ∀ s : State, StateInv s →
    (∀ t, step s = .next t → StateInv t) ∧ (∀ f, step s = .fault f → StateInv f.after)

/-- R26: every operation of the host keeps the invariant, so every state reachable by `reset`, `load`, `step` and
the host's writes has it. -/
def Obligations.HostOperationsKeepTheInvariant : Prop :=
  ∀ (ops : List HostOp) (s : State), StateInv s → StateInv (runHostOps ops s)

/-- The model's memory (log entry 13): two canonical memories that read alike at every address are equal data. -/
def Obligations.CanonicalMemoriesReadingAlikeAreEqual : Prop :=
  ∀ m m' : Memory, Memory.wf m → Memory.wf m' → (∀ a, memRead m a = memRead m' a) → m = m'
end

