-- ==== Sys2Proof/Laws/Encoding.lean ====
section
/-!
SUPPORT. The formats of spec/30_encoding.md R47 under the masks of R50: a mask keeps the fields it covers and
clears the others. And what the fields of a formatted word are.
-/

namespace Sys2Proof

theorem keepAll (b : BitVec 4) : b &&& 0xF#4 = b := BitVec.and_allOnes

theorem formatA_mask (op : BitVec 4) (nnn : Addr12) : formatA op nnn &&& 0xF000 = formatA op 0 := by
  have h : (op ++ nnn) &&& (0xF#4 ++ 0#12) = op ++ 0#12 := by
    rw [BitVec.and_append, keepAll, BitVec.and_zero]
  exact h

theorem formatXK_maskOp (op : BitVec 4) (x : Reg) (nn : Byte) :
    formatXK op x nn &&& 0xF000 = formatXK op 0 0 := by
  have h : (op ++ nibbleBits x ++ nn) &&& (0xF#4 ++ 0#4 ++ 0#8) = op ++ 0#4 ++ 0#8 := by
    rw [BitVec.and_append, BitVec.and_append, keepAll, BitVec.and_zero, BitVec.and_zero]
  exact h

theorem formatXK_maskFunction (op : BitVec 4) (x : Reg) (nn : Byte) :
    formatXK op x nn &&& 0xF0FF = formatXK op 0 nn := by
  have h : (op ++ nibbleBits x ++ nn) &&& (0xF#4 ++ 0#4 ++ BitVec.allOnes 8) = op ++ 0#4 ++ nn := by
    rw [BitVec.and_append, BitVec.and_append, keepAll, BitVec.and_zero, BitVec.and_allOnes]
  exact h

theorem formatXYN_maskOp (op : BitVec 4) (x y : Reg) (n : Fin 16) :
    formatXYN op x y n &&& 0xF000 = formatXYN op 0 0 0 := by
  have h : (op ++ nibbleBits x ++ nibbleBits y ++ nibbleBits n) &&& (0xF#4 ++ 0#4 ++ 0#4 ++ 0#4) =
      op ++ 0#4 ++ 0#4 ++ 0#4 := by
    simp only [BitVec.and_append, keepAll, BitVec.and_zero]
  exact h

theorem formatXYN_maskFunction (op : BitVec 4) (x y : Reg) (n : Fin 16) :
    formatXYN op x y n &&& 0xF00F = formatXYN op 0 0 n := by
  have h : (op ++ nibbleBits x ++ nibbleBits y ++ nibbleBits n) &&& (0xF#4 ++ 0#4 ++ 0#4 ++ 0xF#4) =
      op ++ 0#4 ++ 0#4 ++ nibbleBits n := by
    simp only [BitVec.and_append, keepAll, BitVec.and_zero]
  exact h

/-! A formatted word as a number, and its fields (R46). -/

theorem append_toNat {v w : Nat} (a : BitVec v) (b : BitVec w) :
    (a ++ b).toNat = a.toNat * 2 ^ w + b.toNat := by
  rw [BitVec.toNat_append, ← Nat.shiftLeft_add_eq_or_of_lt b.isLt, Nat.shiftLeft_eq]

theorem formatA_toNat (op : BitVec 4) (nnn : Addr12) :
    (formatA op nnn).toNat = op.toNat * 4096 + nnn.toNat := append_toNat op nnn

theorem formatXK_toNat (op : BitVec 4) (x : Reg) (nn : Byte) :
    (formatXK op x nn).toNat = op.toNat * 4096 + x.val * 256 + nn.toNat := by
  have h : (op ++ nibbleBits x ++ nn).toNat = op.toNat * 4096 + x.val * 256 + nn.toNat := by
    simp only [append_toNat, nibbleBits, BitVec.toNat_ofFin]
    omega
  exact h

theorem formatXYN_toNat (op : BitVec 4) (x y : Reg) (n : Fin 16) :
    (formatXYN op x y n).toNat = op.toNat * 4096 + x.val * 256 + y.val * 16 + n.val := by
  have h : (op ++ nibbleBits x ++ nibbleBits y ++ nibbleBits n).toNat =
      op.toNat * 4096 + x.val * 256 + y.val * 16 + n.val := by
    simp only [append_toNat, nibbleBits, BitVec.toNat_ofFin]
    omega
  exact h

theorem fieldX_val (w : Word) : (fieldX w).val = w.toNat / 256 % 16 := by
  simp [fieldX, Nat.shiftRight_eq_div_pow]

theorem fieldY_val (w : Word) : (fieldY w).val = w.toNat / 16 % 16 := by
  simp [fieldY, Nat.shiftRight_eq_div_pow]

theorem fieldN_val (w : Word) : (fieldN w).val = w.toNat % 16 := by
  simp [fieldN]

theorem fieldNN_toNat (w : Word) : (fieldNN w).toNat = w.toNat % 256 := by
  simp [fieldNN]

theorem fieldNNN_toNat (w : Word) : (fieldNNN w).toNat = w.toNat % 4096 := by
  simp [fieldNNN]

end Sys2Proof
end

