-- ==== Sys2Proof/Laws/Memory.lean ====
section
/-!
SUPPORT. The laws of memory: a read after a write, of one byte and of a run of bytes, and that every operation
keeps the canonical form. The read laws hold of any list, canonical or not.
-/

namespace Sys2Proof.Machine

@[simp] theorem memRead_nil (a : Nat) : memRead [] a = unlisted a := rfl

@[simp] theorem memRead_cons (c : Host.Cell) (m : Memory) (a : Nat) :
    memRead (c :: m) a = if a = c.1 then c.2 else memRead m a := rfl

theorem memRead_memErase_same (m : Memory) (a : Nat) : memRead (memErase m a) a = unlisted a := by
  induction m with
  | nil => rfl
  | cons c m ih =>
    by_cases h : c.1 = a
    · simpa [memErase, h] using ih
    · have h' : a ≠ c.1 := fun e => h e.symm
      simpa [memErase, h, h'] using ih

theorem memRead_memErase_ne (m : Memory) (a b : Nat) (h : b ≠ a) :
    memRead (memErase m a) b = memRead m b := by
  induction m with
  | nil => rfl
  | cons c m ih =>
    by_cases hc : c.1 = a
    · have e : memErase (c :: m) a = memErase m a := by simp [memErase, hc]
      rw [e, memRead_cons, if_neg (hc ▸ h), ih]
    · have e : memErase (c :: m) a = c :: memErase m a := by simp [memErase, hc]
      rw [e, memRead_cons, memRead_cons, ih]

/-- An entry put into a list that has none of its address is read there and nowhere else. -/
theorem memRead_memInsert (c : Host.Cell) (m : Memory) (b : Nat) (h : ∀ d ∈ m, d.1 ≠ c.1) :
    memRead (memInsert c m) b = if b = c.1 then c.2 else memRead m b := by
  induction m with
  | nil => rfl
  | cons d m ih =>
    have hd : d.1 ≠ c.1 := h d (by simp)
    have ih := ih fun e he => h e (by simp [he])
    simp only [memInsert]
    split
    · rfl
    · rw [memRead_cons, ih, memRead_cons]
      by_cases hb : b = c.1
      · have : b ≠ d.1 := fun e => hd (e ▸ hb)
        simp [hb, hd.symm]
      · simp [hb]

theorem memErase_avoids (m : Memory) (a : Nat) : ∀ d ∈ memErase m a, d.1 ≠ a := by
  intro d hd
  simpa [memErase] using (List.mem_filter.mp hd).2

/-- A read of any byte after a write of one. -/
theorem memRead_memWrite (m : Memory) (a b : Nat) (v : Byte) :
    memRead (memWrite m a v) b = if b = a then v else memRead m b := by
  unfold memWrite
  split
  · rename_i h
    by_cases hb : b = a
    · simp [hb, memRead_memErase_same, h]
    · simp [hb, memRead_memErase_ne]
  · rw [memRead_memInsert _ _ _ (memErase_avoids m a)]
    by_cases hb : b = a
    · simp [hb]
    · simp [hb, memRead_memErase_ne]

theorem memRead_memWrite_same (m : Memory) (a : Nat) (v : Byte) : memRead (memWrite m a v) a = v := by
  simp [memRead_memWrite]

theorem memRead_memWrite_ne (m : Memory) (a b : Nat) (v : Byte) (h : b ≠ a) :
    memRead (memWrite m a v) b = memRead m b := by
  simp [memRead_memWrite, h]

/-- A read outside the bytes a run of stores covers. -/
theorem memRead_storeBytes_outside (m : Memory) (a b : Nat) (vs : List Byte)
    (h : b < a ∨ a + vs.length ≤ b) : memRead (storeBytes m a vs) b = memRead m b := by
  induction vs generalizing m a with
  | nil => rfl
  | cons v vs ih =>
    simp only [List.length_cons] at h
    rw [storeBytes, ih _ _ (by omega), memRead_memWrite_ne _ _ _ _ (by omega)]

/-- A read of a byte a run of stores wrote. -/
theorem memRead_storeBytes_inside (m : Memory) (a : Nat) (vs : List Byte) (k : Nat)
    (h : k < vs.length) : memRead (storeBytes m a vs) (a + k) = vs[k] := by
  induction vs generalizing m a k with
  | nil => simp at h
  | cons v vs ih =>
    rw [storeBytes]
    cases k with
    | zero => rw [memRead_storeBytes_outside _ _ _ _ (by omega)]; exact memRead_memWrite_same _ _ _
    | succ k =>
      have e : a + (k + 1) = a + 1 + k := by omega
      rw [e, ih _ _ _ (by simpa using h)]; rfl

@[simp] theorem loadBytes_length (m : Memory) (a n : Nat) : (loadBytes m a n).length = n := by
  simp [loadBytes]

theorem loadBytes_getElem (m : Memory) (a n k : Nat) (h : k < (loadBytes m a n).length) :
    (loadBytes m a n)[k] = memRead m (a + k) := by
  simp [loadBytes]

/-- What the range check answers (R36). -/
theorem memRangeOk_iff (base n : Nat) : memRangeOk base n = true ↔ n = 0 ∨ base + n ≤ 0x1000 := by
  simp only [memRangeOk, decide_eq_true_eq]
  omega

/-! Every operation keeps the canonical form. -/

theorem wf_nil : Memory.wf [] := by simp [Memory.wf]

theorem memErase_wf (m : Memory) (a : Nat) (h : Memory.wf m) : Memory.wf (memErase m a) :=
  ⟨h.1.filter _, fun c hc => h.2 c (List.mem_filter.mp hc).1⟩

theorem mem_memInsert (c d : Host.Cell) (m : Memory) : d ∈ memInsert c m ↔ d = c ∨ d ∈ m := by
  induction m with
  | nil => simp [memInsert]
  | cons e m ih =>
    simp only [memInsert]
    split
    · simp
    · simp only [List.mem_cons, ih]; tauto

theorem memInsert_wf (c : Host.Cell) (m : Memory) (h : Memory.wf m) (hm : ∀ d ∈ m, d.1 ≠ c.1)
    (ha : c.1 < Config.memSize) (hv : c.2 ≠ unlisted c.1) : Memory.wf (memInsert c m) := by
  refine ⟨?_, fun d hd => ?_⟩
  · obtain ⟨hs, -⟩ := h
    induction m with
    | nil => simp [memInsert]
    | cons e m ih =>
      have he : e.1 ≠ c.1 := hm e (by simp)
      rw [List.pairwise_cons] at hs
      simp only [memInsert]
      split
      · rename_i hlt
        rw [List.pairwise_cons, List.pairwise_cons]
        refine ⟨fun d hd => ?_, hs⟩
        rcases List.mem_cons.mp hd with rfl | hd
        · exact hlt
        · exact Nat.lt_trans hlt (hs.1 d hd)
      · rw [List.pairwise_cons]
        refine ⟨fun d hd => ?_, ih (fun d hd => hm d (by simp [hd])) hs.2⟩
        rcases (mem_memInsert c d m).mp hd with rfl | hd
        · omega
        · exact hs.1 d hd
  · rcases (mem_memInsert c d m).mp hd with rfl | hd
    · exact ⟨ha, hv⟩
    · exact h.2 d hd

theorem memWrite_wf (m : Memory) (a : Nat) (v : Byte) (h : Memory.wf m) (ha : a < Config.memSize) :
    Memory.wf (memWrite m a v) := by
  unfold memWrite
  split
  · exact memErase_wf m a h
  · exact memInsert_wf _ _ (memErase_wf m a h) (memErase_avoids m a) ha ‹_›

theorem storeBytes_wf (m : Memory) (a : Nat) (vs : List Byte) (h : Memory.wf m)
    (ha : a + vs.length ≤ Config.memSize) : Memory.wf (storeBytes m a vs) := by
  induction vs generalizing m a with
  | nil => exact h
  | cons v vs ih =>
    simp only [List.length_cons] at ha
    exact ih _ _ (memWrite_wf m a v h (by omega)) (by omega)

/-- The memory after reset lists nothing, so it is in canonical form. -/
theorem reset_mem_wf : Memory.wf State.reset.mem := wf_nil

end Sys2Proof.Machine
end

