-- ==== Sys2Proof/Laws/State.lean ====
section
/-!
SUPPORT. One lemma per field per update of the state, each true by rfl, so that no later proof unfolds a record
update; and the same for the two accessors `readReg` and `keyDown`.
-/

namespace Sys2Proof.Machine

variable (s : State)

/-! The fields of a state after `writeReg`. -/

@[simp] theorem writeReg_mem (r : Reg) (v : Byte) : (writeReg s r v).mem = s.mem := rfl
@[simp] theorem writeReg_regs (r : Reg) (v : Byte) : (writeReg s r v).regs = s.regs.set r.val v r.isLt := rfl
@[simp] theorem writeReg_I (r : Reg) (v : Byte) : (writeReg s r v).I = s.I := rfl
@[simp] theorem writeReg_pc (r : Reg) (v : Byte) : (writeReg s r v).pc = s.pc := rfl
@[simp] theorem writeReg_stack (r : Reg) (v : Byte) : (writeReg s r v).stack = s.stack := rfl
@[simp] theorem writeReg_sp (r : Reg) (v : Byte) : (writeReg s r v).sp = s.sp := rfl
@[simp] theorem writeReg_dt (r : Reg) (v : Byte) : (writeReg s r v).dt = s.dt := rfl
@[simp] theorem writeReg_st (r : Reg) (v : Byte) : (writeReg s r v).st = s.st := rfl
@[simp] theorem writeReg_fb (r : Reg) (v : Byte) : (writeReg s r v).fb = s.fb := rfl
@[simp] theorem writeReg_keys (r : Reg) (v : Byte) : (writeReg s r v).keys = s.keys := rfl
@[simp] theorem writeReg_drawFlag (r : Reg) (v : Byte) : (writeReg s r v).drawFlag = s.drawFlag := rfl
@[simp] theorem writeReg_beepFlag (r : Reg) (v : Byte) : (writeReg s r v).beepFlag = s.beepFlag := rfl
@[simp] theorem writeReg_rndQueue (r : Reg) (v : Byte) : (writeReg s r v).rndQueue = s.rndQueue := rfl
@[simp] theorem writeReg_rndIndex (r : Reg) (v : Byte) : (writeReg s r v).rndIndex = s.rndIndex := rfl
@[simp] theorem keyDown_writeReg (r : Reg) (v : Byte) (k : Key) : keyDown (writeReg s r v) k = keyDown s k := rfl

/-! The fields of a state after `writeVF`. -/

@[simp] theorem writeVF_mem (b : Bool) : (writeVF s b).mem = s.mem := rfl
@[simp] theorem writeVF_regs (b : Bool) : (writeVF s b).regs = s.regs.set 15 (flagByte b) := rfl
@[simp] theorem writeVF_I (b : Bool) : (writeVF s b).I = s.I := rfl
@[simp] theorem writeVF_pc (b : Bool) : (writeVF s b).pc = s.pc := rfl
@[simp] theorem writeVF_stack (b : Bool) : (writeVF s b).stack = s.stack := rfl
@[simp] theorem writeVF_sp (b : Bool) : (writeVF s b).sp = s.sp := rfl
@[simp] theorem writeVF_dt (b : Bool) : (writeVF s b).dt = s.dt := rfl
@[simp] theorem writeVF_st (b : Bool) : (writeVF s b).st = s.st := rfl
@[simp] theorem writeVF_fb (b : Bool) : (writeVF s b).fb = s.fb := rfl
@[simp] theorem writeVF_keys (b : Bool) : (writeVF s b).keys = s.keys := rfl
@[simp] theorem writeVF_drawFlag (b : Bool) : (writeVF s b).drawFlag = s.drawFlag := rfl
@[simp] theorem writeVF_beepFlag (b : Bool) : (writeVF s b).beepFlag = s.beepFlag := rfl
@[simp] theorem writeVF_rndQueue (b : Bool) : (writeVF s b).rndQueue = s.rndQueue := rfl
@[simp] theorem writeVF_rndIndex (b : Bool) : (writeVF s b).rndIndex = s.rndIndex := rfl
@[simp] theorem keyDown_writeVF (b : Bool) (k : Key) : keyDown (writeVF s b) k = keyDown s k := rfl

/-! The fields of a state after `writeI`. -/

@[simp] theorem writeI_mem (v : Word) : (writeI s v).mem = s.mem := rfl
@[simp] theorem writeI_regs (v : Word) : (writeI s v).regs = s.regs := rfl
@[simp] theorem writeI_I (v : Word) : (writeI s v).I = v := rfl
@[simp] theorem writeI_pc (v : Word) : (writeI s v).pc = s.pc := rfl
@[simp] theorem writeI_stack (v : Word) : (writeI s v).stack = s.stack := rfl
@[simp] theorem writeI_sp (v : Word) : (writeI s v).sp = s.sp := rfl
@[simp] theorem writeI_dt (v : Word) : (writeI s v).dt = s.dt := rfl
@[simp] theorem writeI_st (v : Word) : (writeI s v).st = s.st := rfl
@[simp] theorem writeI_fb (v : Word) : (writeI s v).fb = s.fb := rfl
@[simp] theorem writeI_keys (v : Word) : (writeI s v).keys = s.keys := rfl
@[simp] theorem writeI_drawFlag (v : Word) : (writeI s v).drawFlag = s.drawFlag := rfl
@[simp] theorem writeI_beepFlag (v : Word) : (writeI s v).beepFlag = s.beepFlag := rfl
@[simp] theorem writeI_rndQueue (v : Word) : (writeI s v).rndQueue = s.rndQueue := rfl
@[simp] theorem writeI_rndIndex (v : Word) : (writeI s v).rndIndex = s.rndIndex := rfl
@[simp] theorem readReg_writeI (v : Word) (i : Reg) : readReg (writeI s v) i = readReg s i := rfl
@[simp] theorem keyDown_writeI (v : Word) (k : Key) : keyDown (writeI s v) k = keyDown s k := rfl

/-! The fields of a state after `jumpTo`. -/

@[simp] theorem jumpTo_mem (target : Word) : (jumpTo s target).mem = s.mem := rfl
@[simp] theorem jumpTo_regs (target : Word) : (jumpTo s target).regs = s.regs := rfl
@[simp] theorem jumpTo_I (target : Word) : (jumpTo s target).I = s.I := rfl
@[simp] theorem jumpTo_pc (target : Word) : (jumpTo s target).pc = target := rfl
@[simp] theorem jumpTo_stack (target : Word) : (jumpTo s target).stack = s.stack := rfl
@[simp] theorem jumpTo_sp (target : Word) : (jumpTo s target).sp = s.sp := rfl
@[simp] theorem jumpTo_dt (target : Word) : (jumpTo s target).dt = s.dt := rfl
@[simp] theorem jumpTo_st (target : Word) : (jumpTo s target).st = s.st := rfl
@[simp] theorem jumpTo_fb (target : Word) : (jumpTo s target).fb = s.fb := rfl
@[simp] theorem jumpTo_keys (target : Word) : (jumpTo s target).keys = s.keys := rfl
@[simp] theorem jumpTo_drawFlag (target : Word) : (jumpTo s target).drawFlag = s.drawFlag := rfl
@[simp] theorem jumpTo_beepFlag (target : Word) : (jumpTo s target).beepFlag = s.beepFlag := rfl
@[simp] theorem jumpTo_rndQueue (target : Word) : (jumpTo s target).rndQueue = s.rndQueue := rfl
@[simp] theorem jumpTo_rndIndex (target : Word) : (jumpTo s target).rndIndex = s.rndIndex := rfl
@[simp] theorem readReg_jumpTo (target : Word) (i : Reg) : readReg (jumpTo s target) i = readReg s i := rfl
@[simp] theorem keyDown_jumpTo (target : Word) (k : Key) : keyDown (jumpTo s target) k = keyDown s k := rfl

/-! The fields of a state after `advance`. -/

@[simp] theorem advance_mem : (advance s).mem = s.mem := rfl
@[simp] theorem advance_regs : (advance s).regs = s.regs := rfl
@[simp] theorem advance_I : (advance s).I = s.I := rfl
@[simp] theorem advance_pc : (advance s).pc = s.pc + 2 := rfl
@[simp] theorem advance_stack : (advance s).stack = s.stack := rfl
@[simp] theorem advance_sp : (advance s).sp = s.sp := rfl
@[simp] theorem advance_dt : (advance s).dt = s.dt := rfl
@[simp] theorem advance_st : (advance s).st = s.st := rfl
@[simp] theorem advance_fb : (advance s).fb = s.fb := rfl
@[simp] theorem advance_keys : (advance s).keys = s.keys := rfl
@[simp] theorem advance_drawFlag : (advance s).drawFlag = s.drawFlag := rfl
@[simp] theorem advance_beepFlag : (advance s).beepFlag = s.beepFlag := rfl
@[simp] theorem advance_rndQueue : (advance s).rndQueue = s.rndQueue := rfl
@[simp] theorem advance_rndIndex : (advance s).rndIndex = s.rndIndex := rfl
@[simp] theorem readReg_advance (i : Reg) : readReg (advance s) i = readReg s i := rfl
@[simp] theorem keyDown_advance (k : Key) : keyDown (advance s) k = keyDown s k := rfl

/-! The fields of a state after `skipIf`. -/

@[simp] theorem skipIf_mem (c : Bool) : (skipIf c s).mem = s.mem := rfl
@[simp] theorem skipIf_regs (c : Bool) : (skipIf c s).regs = s.regs := rfl
@[simp] theorem skipIf_I (c : Bool) : (skipIf c s).I = s.I := rfl
@[simp] theorem skipIf_pc (c : Bool) : (skipIf c s).pc = if c then s.pc + 4 else s.pc + 2 := rfl
@[simp] theorem skipIf_stack (c : Bool) : (skipIf c s).stack = s.stack := rfl
@[simp] theorem skipIf_sp (c : Bool) : (skipIf c s).sp = s.sp := rfl
@[simp] theorem skipIf_dt (c : Bool) : (skipIf c s).dt = s.dt := rfl
@[simp] theorem skipIf_st (c : Bool) : (skipIf c s).st = s.st := rfl
@[simp] theorem skipIf_fb (c : Bool) : (skipIf c s).fb = s.fb := rfl
@[simp] theorem skipIf_keys (c : Bool) : (skipIf c s).keys = s.keys := rfl
@[simp] theorem skipIf_drawFlag (c : Bool) : (skipIf c s).drawFlag = s.drawFlag := rfl
@[simp] theorem skipIf_beepFlag (c : Bool) : (skipIf c s).beepFlag = s.beepFlag := rfl
@[simp] theorem skipIf_rndQueue (c : Bool) : (skipIf c s).rndQueue = s.rndQueue := rfl
@[simp] theorem skipIf_rndIndex (c : Bool) : (skipIf c s).rndIndex = s.rndIndex := rfl
@[simp] theorem readReg_skipIf (c : Bool) (i : Reg) : readReg (skipIf c s) i = readReg s i := rfl
@[simp] theorem keyDown_skipIf (c : Bool) (k : Key) : keyDown (skipIf c s) k = keyDown s k := rfl

/-! The fields of a state after `push`. -/

@[simp] theorem push_mem (v : Word) (h : s.sp.val < 16) : (push s v h).mem = s.mem := rfl
@[simp] theorem push_regs (v : Word) (h : s.sp.val < 16) : (push s v h).regs = s.regs := rfl
@[simp] theorem push_I (v : Word) (h : s.sp.val < 16) : (push s v h).I = s.I := rfl
@[simp] theorem push_pc (v : Word) (h : s.sp.val < 16) : (push s v h).pc = s.pc := rfl
@[simp] theorem push_stack (v : Word) (h : s.sp.val < 16) : (push s v h).stack = s.stack.set s.sp.val v h := rfl
@[simp] theorem push_sp (v : Word) (h : s.sp.val < 16) : (push s v h).sp = ⟨s.sp.val + 1, by omega⟩ := rfl
@[simp] theorem push_dt (v : Word) (h : s.sp.val < 16) : (push s v h).dt = s.dt := rfl
@[simp] theorem push_st (v : Word) (h : s.sp.val < 16) : (push s v h).st = s.st := rfl
@[simp] theorem push_fb (v : Word) (h : s.sp.val < 16) : (push s v h).fb = s.fb := rfl
@[simp] theorem push_keys (v : Word) (h : s.sp.val < 16) : (push s v h).keys = s.keys := rfl
@[simp] theorem push_drawFlag (v : Word) (h : s.sp.val < 16) : (push s v h).drawFlag = s.drawFlag := rfl
@[simp] theorem push_beepFlag (v : Word) (h : s.sp.val < 16) : (push s v h).beepFlag = s.beepFlag := rfl
@[simp] theorem push_rndQueue (v : Word) (h : s.sp.val < 16) : (push s v h).rndQueue = s.rndQueue := rfl
@[simp] theorem push_rndIndex (v : Word) (h : s.sp.val < 16) : (push s v h).rndIndex = s.rndIndex := rfl
@[simp] theorem readReg_push (v : Word) (h : s.sp.val < 16) (i : Reg) : readReg (push s v h) i = readReg s i := rfl
@[simp] theorem keyDown_push (v : Word) (h : s.sp.val < 16) (k : Key) : keyDown (push s v h) k = keyDown s k := rfl

/-! The fields of a state after `pop`. -/

@[simp] theorem pop_mem : (pop s).mem = s.mem := rfl
@[simp] theorem pop_regs : (pop s).regs = s.regs := rfl
@[simp] theorem pop_I : (pop s).I = s.I := rfl
@[simp] theorem pop_pc : (pop s).pc = s.pc := rfl
@[simp] theorem pop_stack : (pop s).stack = s.stack := rfl
@[simp] theorem pop_sp : (pop s).sp = ⟨s.sp.val - 1, by omega⟩ := rfl
@[simp] theorem pop_dt : (pop s).dt = s.dt := rfl
@[simp] theorem pop_st : (pop s).st = s.st := rfl
@[simp] theorem pop_fb : (pop s).fb = s.fb := rfl
@[simp] theorem pop_keys : (pop s).keys = s.keys := rfl
@[simp] theorem pop_drawFlag : (pop s).drawFlag = s.drawFlag := rfl
@[simp] theorem pop_beepFlag : (pop s).beepFlag = s.beepFlag := rfl
@[simp] theorem pop_rndQueue : (pop s).rndQueue = s.rndQueue := rfl
@[simp] theorem pop_rndIndex : (pop s).rndIndex = s.rndIndex := rfl
@[simp] theorem readReg_pop (i : Reg) : readReg (pop s) i = readReg s i := rfl
@[simp] theorem keyDown_pop (k : Key) : keyDown (pop s) k = keyDown s k := rfl

/-! The fields of a state after `writeMem`. -/

@[simp] theorem writeMem_mem (m : Memory) : (writeMem s m).mem = m := rfl
@[simp] theorem writeMem_regs (m : Memory) : (writeMem s m).regs = s.regs := rfl
@[simp] theorem writeMem_I (m : Memory) : (writeMem s m).I = s.I := rfl
@[simp] theorem writeMem_pc (m : Memory) : (writeMem s m).pc = s.pc := rfl
@[simp] theorem writeMem_stack (m : Memory) : (writeMem s m).stack = s.stack := rfl
@[simp] theorem writeMem_sp (m : Memory) : (writeMem s m).sp = s.sp := rfl
@[simp] theorem writeMem_dt (m : Memory) : (writeMem s m).dt = s.dt := rfl
@[simp] theorem writeMem_st (m : Memory) : (writeMem s m).st = s.st := rfl
@[simp] theorem writeMem_fb (m : Memory) : (writeMem s m).fb = s.fb := rfl
@[simp] theorem writeMem_keys (m : Memory) : (writeMem s m).keys = s.keys := rfl
@[simp] theorem writeMem_drawFlag (m : Memory) : (writeMem s m).drawFlag = s.drawFlag := rfl
@[simp] theorem writeMem_beepFlag (m : Memory) : (writeMem s m).beepFlag = s.beepFlag := rfl
@[simp] theorem writeMem_rndQueue (m : Memory) : (writeMem s m).rndQueue = s.rndQueue := rfl
@[simp] theorem writeMem_rndIndex (m : Memory) : (writeMem s m).rndIndex = s.rndIndex := rfl
@[simp] theorem readReg_writeMem (m : Memory) (i : Reg) : readReg (writeMem s m) i = readReg s i := rfl
@[simp] theorem keyDown_writeMem (m : Memory) (k : Key) : keyDown (writeMem s m) k = keyDown s k := rfl

/-! The fields of a state after `writeRegs`. -/

@[simp] theorem writeRegs_mem (regs : Vector Byte 16) : (writeRegs s regs).mem = s.mem := rfl
@[simp] theorem writeRegs_regs (regs : Vector Byte 16) : (writeRegs s regs).regs = regs := rfl
@[simp] theorem writeRegs_I (regs : Vector Byte 16) : (writeRegs s regs).I = s.I := rfl
@[simp] theorem writeRegs_pc (regs : Vector Byte 16) : (writeRegs s regs).pc = s.pc := rfl
@[simp] theorem writeRegs_stack (regs : Vector Byte 16) : (writeRegs s regs).stack = s.stack := rfl
@[simp] theorem writeRegs_sp (regs : Vector Byte 16) : (writeRegs s regs).sp = s.sp := rfl
@[simp] theorem writeRegs_dt (regs : Vector Byte 16) : (writeRegs s regs).dt = s.dt := rfl
@[simp] theorem writeRegs_st (regs : Vector Byte 16) : (writeRegs s regs).st = s.st := rfl
@[simp] theorem writeRegs_fb (regs : Vector Byte 16) : (writeRegs s regs).fb = s.fb := rfl
@[simp] theorem writeRegs_keys (regs : Vector Byte 16) : (writeRegs s regs).keys = s.keys := rfl
@[simp] theorem writeRegs_drawFlag (regs : Vector Byte 16) : (writeRegs s regs).drawFlag = s.drawFlag := rfl
@[simp] theorem writeRegs_beepFlag (regs : Vector Byte 16) : (writeRegs s regs).beepFlag = s.beepFlag := rfl
@[simp] theorem writeRegs_rndQueue (regs : Vector Byte 16) : (writeRegs s regs).rndQueue = s.rndQueue := rfl
@[simp] theorem writeRegs_rndIndex (regs : Vector Byte 16) : (writeRegs s regs).rndIndex = s.rndIndex := rfl
@[simp] theorem keyDown_writeRegs (regs : Vector Byte 16) (k : Key) : keyDown (writeRegs s regs) k = keyDown s k := rfl

/-! The fields of a state after `redraw`. -/

@[simp] theorem redraw_mem (fb : Framebuffer) : (redraw s fb).mem = s.mem := rfl
@[simp] theorem redraw_regs (fb : Framebuffer) : (redraw s fb).regs = s.regs := rfl
@[simp] theorem redraw_I (fb : Framebuffer) : (redraw s fb).I = s.I := rfl
@[simp] theorem redraw_pc (fb : Framebuffer) : (redraw s fb).pc = s.pc := rfl
@[simp] theorem redraw_stack (fb : Framebuffer) : (redraw s fb).stack = s.stack := rfl
@[simp] theorem redraw_sp (fb : Framebuffer) : (redraw s fb).sp = s.sp := rfl
@[simp] theorem redraw_dt (fb : Framebuffer) : (redraw s fb).dt = s.dt := rfl
@[simp] theorem redraw_st (fb : Framebuffer) : (redraw s fb).st = s.st := rfl
@[simp] theorem redraw_fb (fb : Framebuffer) : (redraw s fb).fb = fb := rfl
@[simp] theorem redraw_keys (fb : Framebuffer) : (redraw s fb).keys = s.keys := rfl
@[simp] theorem redraw_drawFlag (fb : Framebuffer) : (redraw s fb).drawFlag = true := rfl
@[simp] theorem redraw_beepFlag (fb : Framebuffer) : (redraw s fb).beepFlag = s.beepFlag := rfl
@[simp] theorem redraw_rndQueue (fb : Framebuffer) : (redraw s fb).rndQueue = s.rndQueue := rfl
@[simp] theorem redraw_rndIndex (fb : Framebuffer) : (redraw s fb).rndIndex = s.rndIndex := rfl
@[simp] theorem readReg_redraw (fb : Framebuffer) (i : Reg) : readReg (redraw s fb) i = readReg s i := rfl
@[simp] theorem keyDown_redraw (fb : Framebuffer) (k : Key) : keyDown (redraw s fb) k = keyDown s k := rfl

/-! The fields of a state after `writeDt`. -/

@[simp] theorem writeDt_mem (v : Byte) : (writeDt s v).mem = s.mem := rfl
@[simp] theorem writeDt_regs (v : Byte) : (writeDt s v).regs = s.regs := rfl
@[simp] theorem writeDt_I (v : Byte) : (writeDt s v).I = s.I := rfl
@[simp] theorem writeDt_pc (v : Byte) : (writeDt s v).pc = s.pc := rfl
@[simp] theorem writeDt_stack (v : Byte) : (writeDt s v).stack = s.stack := rfl
@[simp] theorem writeDt_sp (v : Byte) : (writeDt s v).sp = s.sp := rfl
@[simp] theorem writeDt_dt (v : Byte) : (writeDt s v).dt = v := rfl
@[simp] theorem writeDt_st (v : Byte) : (writeDt s v).st = s.st := rfl
@[simp] theorem writeDt_fb (v : Byte) : (writeDt s v).fb = s.fb := rfl
@[simp] theorem writeDt_keys (v : Byte) : (writeDt s v).keys = s.keys := rfl
@[simp] theorem writeDt_drawFlag (v : Byte) : (writeDt s v).drawFlag = s.drawFlag := rfl
@[simp] theorem writeDt_beepFlag (v : Byte) : (writeDt s v).beepFlag = s.beepFlag := rfl
@[simp] theorem writeDt_rndQueue (v : Byte) : (writeDt s v).rndQueue = s.rndQueue := rfl
@[simp] theorem writeDt_rndIndex (v : Byte) : (writeDt s v).rndIndex = s.rndIndex := rfl
@[simp] theorem readReg_writeDt (v : Byte) (i : Reg) : readReg (writeDt s v) i = readReg s i := rfl
@[simp] theorem keyDown_writeDt (v : Byte) (k : Key) : keyDown (writeDt s v) k = keyDown s k := rfl

/-! The fields of a state after `writeSt`. -/

@[simp] theorem writeSt_mem (v : Byte) : (writeSt s v).mem = s.mem := rfl
@[simp] theorem writeSt_regs (v : Byte) : (writeSt s v).regs = s.regs := rfl
@[simp] theorem writeSt_I (v : Byte) : (writeSt s v).I = s.I := rfl
@[simp] theorem writeSt_pc (v : Byte) : (writeSt s v).pc = s.pc := rfl
@[simp] theorem writeSt_stack (v : Byte) : (writeSt s v).stack = s.stack := rfl
@[simp] theorem writeSt_sp (v : Byte) : (writeSt s v).sp = s.sp := rfl
@[simp] theorem writeSt_dt (v : Byte) : (writeSt s v).dt = s.dt := rfl
@[simp] theorem writeSt_st (v : Byte) : (writeSt s v).st = v := rfl
@[simp] theorem writeSt_fb (v : Byte) : (writeSt s v).fb = s.fb := rfl
@[simp] theorem writeSt_keys (v : Byte) : (writeSt s v).keys = s.keys := rfl
@[simp] theorem writeSt_drawFlag (v : Byte) : (writeSt s v).drawFlag = s.drawFlag := rfl
@[simp] theorem writeSt_beepFlag (v : Byte) : (writeSt s v).beepFlag = s.beepFlag := rfl
@[simp] theorem writeSt_rndQueue (v : Byte) : (writeSt s v).rndQueue = s.rndQueue := rfl
@[simp] theorem writeSt_rndIndex (v : Byte) : (writeSt s v).rndIndex = s.rndIndex := rfl
@[simp] theorem readReg_writeSt (v : Byte) (i : Reg) : readReg (writeSt s v) i = readReg s i := rfl
@[simp] theorem keyDown_writeSt (v : Byte) (k : Key) : keyDown (writeSt s v) k = keyDown s k := rfl

/-! The fields of a state after `timerPhase`. -/

@[simp] theorem timerPhase_mem : (timerPhase s).mem = s.mem := rfl
@[simp] theorem timerPhase_regs : (timerPhase s).regs = s.regs := rfl
@[simp] theorem timerPhase_I : (timerPhase s).I = s.I := rfl
@[simp] theorem timerPhase_pc : (timerPhase s).pc = s.pc := rfl
@[simp] theorem timerPhase_stack : (timerPhase s).stack = s.stack := rfl
@[simp] theorem timerPhase_sp : (timerPhase s).sp = s.sp := rfl
@[simp] theorem timerPhase_dt : (timerPhase s).dt = tick s.dt := rfl
@[simp] theorem timerPhase_st : (timerPhase s).st = tick s.st := rfl
@[simp] theorem timerPhase_fb : (timerPhase s).fb = s.fb := rfl
@[simp] theorem timerPhase_keys : (timerPhase s).keys = s.keys := rfl
@[simp] theorem timerPhase_drawFlag : (timerPhase s).drawFlag = s.drawFlag := rfl
@[simp] theorem timerPhase_beepFlag : (timerPhase s).beepFlag = (s.beepFlag || s.st == 1) := rfl
@[simp] theorem timerPhase_rndQueue : (timerPhase s).rndQueue = s.rndQueue := rfl
@[simp] theorem timerPhase_rndIndex : (timerPhase s).rndIndex = s.rndIndex := rfl
@[simp] theorem readReg_timerPhase (i : Reg) : readReg (timerPhase s) i = readReg s i := rfl
@[simp] theorem keyDown_timerPhase (k : Key) : keyDown (timerPhase s) k = keyDown s k := rfl

/-! The fields of a state after `consumeRnd`. -/

@[simp] theorem consumeRnd_mem : (consumeRnd s).mem = s.mem := rfl
@[simp] theorem consumeRnd_regs : (consumeRnd s).regs = s.regs := rfl
@[simp] theorem consumeRnd_I : (consumeRnd s).I = s.I := rfl
@[simp] theorem consumeRnd_pc : (consumeRnd s).pc = s.pc := rfl
@[simp] theorem consumeRnd_stack : (consumeRnd s).stack = s.stack := rfl
@[simp] theorem consumeRnd_sp : (consumeRnd s).sp = s.sp := rfl
@[simp] theorem consumeRnd_dt : (consumeRnd s).dt = s.dt := rfl
@[simp] theorem consumeRnd_st : (consumeRnd s).st = s.st := rfl
@[simp] theorem consumeRnd_fb : (consumeRnd s).fb = s.fb := rfl
@[simp] theorem consumeRnd_keys : (consumeRnd s).keys = s.keys := rfl
@[simp] theorem consumeRnd_drawFlag : (consumeRnd s).drawFlag = s.drawFlag := rfl
@[simp] theorem consumeRnd_beepFlag : (consumeRnd s).beepFlag = s.beepFlag := rfl
@[simp] theorem consumeRnd_rndQueue : (consumeRnd s).rndQueue = s.rndQueue.tail := rfl
@[simp] theorem consumeRnd_rndIndex : (consumeRnd s).rndIndex = s.rndIndex + 1 := rfl
@[simp] theorem readReg_consumeRnd (i : Reg) : readReg (consumeRnd s) i = readReg s i := rfl
@[simp] theorem keyDown_consumeRnd (k : Key) : keyDown (consumeRnd s) k = keyDown s k := rfl

/-! The fields of a state after `endStep`. -/

@[simp] theorem endStep_mem : (endStep s).mem = s.mem := rfl
@[simp] theorem endStep_regs : (endStep s).regs = s.regs := rfl
@[simp] theorem endStep_I : (endStep s).I = s.I := rfl
@[simp] theorem endStep_pc : (endStep s).pc = s.pc := rfl
@[simp] theorem endStep_stack : (endStep s).stack = s.stack := rfl
@[simp] theorem endStep_sp : (endStep s).sp = s.sp := rfl
@[simp] theorem endStep_dt : (endStep s).dt = tick s.dt := rfl
@[simp] theorem endStep_st : (endStep s).st = tick s.st := rfl
@[simp] theorem endStep_fb : (endStep s).fb = s.fb := rfl
@[simp] theorem endStep_keys : (endStep s).keys = s.keys := rfl
@[simp] theorem endStep_drawFlag : (endStep s).drawFlag = s.drawFlag := rfl
@[simp] theorem endStep_beepFlag : (endStep s).beepFlag = (s.beepFlag || s.st == 1) := rfl
@[simp] theorem endStep_rndQueue : (endStep s).rndQueue = s.rndQueue.tail := rfl
@[simp] theorem endStep_rndIndex : (endStep s).rndIndex = s.rndIndex + 1 := rfl
@[simp] theorem readReg_endStep (i : Reg) : readReg (endStep s) i = readReg s i := rfl
@[simp] theorem keyDown_endStep (k : Key) : keyDown (endStep s) k = keyDown s k := rfl

/-! Reading a register after a write. -/

theorem readReg_writeReg_same (r : Reg) (v : Byte) : readReg (writeReg s r v) r = v := by
  simp [readReg]

theorem readReg_writeReg_ne (r i : Reg) (v : Byte) (h : i ≠ r) :
    readReg (writeReg s r v) i = readReg s i := by
  have : r.val ≠ i.val := fun e => h (Fin.ext e.symm)
  simp [readReg, this]

/-- Reading any register after a write to one. -/
theorem readReg_writeReg (r i : Reg) (v : Byte) :
    readReg (writeReg s r v) i = if i = r then v else readReg s i := by
  split
  · subst i; exact readReg_writeReg_same s r v
  · exact readReg_writeReg_ne s r i v ‹_›

/-- Reading any register after the whole file was set. -/
@[simp] theorem readReg_writeRegs (regs : Vector Byte 16) (i : Reg) :
    readReg (writeRegs s regs) i = regs[i] := rfl

/-- Reading any register after a flag was written into VF. -/
theorem readReg_writeVF (i : Reg) (b : Bool) :
    readReg (writeVF s b) i = if i = 15 then flagByte b else readReg s i :=
  readReg_writeReg s 15 i (flagByte b)

end Sys2Proof.Machine
end

