-- ==== Sys2Proof/Laws/Ops.lean ====
section
/-!
SUPPORT. What each shared operation can do, said once: raising an error, the range check, the two shapes of a
register instruction, and the state and error of a fault.
-/

namespace Sys2Proof.Machine

/-- Raising an error never answers a next state. -/
theorem raise_ne_next (error : State → Fault) (s t : State) : raise error s ≠ .next t := nofun

/-- The range check answers a next state exactly when the access stays inside memory. -/
theorem checkRange_eq_next (base n : Nat) (s t u : State) :
    checkRange base n s t = .next u ↔ (n = 0 ∨ base + n ≤ 0x1000) ∧ u = t := by
  unfold checkRange
  split
  · rename_i h
    simp [(memRangeOk_iff base n).mp h, eq_comm]
  · rename_i h
    simp [raise, mt (memRangeOk_iff base n).mpr h]

/-- The range check raises `MemoryOutOfRange` over the unchanged state exactly when the access leaves memory. -/
theorem checkRange_eq_fault (base n : Nat) (s t : State) (f : Fault) :
    checkRange base n s t = .fault f ↔
      ¬ (n = 0 ∨ base + n ≤ 0x1000) ∧ f = .memoryOutOfRange (lowestBad base) s := by
  unfold checkRange
  split
  · rename_i h
    simp [(memRangeOk_iff base n).mp h]
  · rename_i h
    simp [raise, mt (memRangeOk_iff base n).mpr h, eq_comm]

theorem checkRange_ne_refused (base n : Nat) (s t : State) (r : Refusal) :
    checkRange base n s t ≠ .refused r := by
  unfold checkRange raise
  split <;> simp

/-- A result without a flag: every register but the destination keeps its value. -/
theorem setResult_next (s : State) (x : Reg) (v : Byte) :
    ∃ t, setResult s x v = .next t ∧ t = advance (writeReg s x v) ∧
      ∀ r, readReg t r = if r = x then v else readReg s r :=
  ⟨_, rfl, rfl, fun r => by simp [readReg_writeReg]⟩

/-- A flag and a result: the result wins where both go to VF. -/
theorem setFlagResult_next (s : State) (b : Bool) (x : Reg) (v : Byte) :
    ∃ t, setFlagResult s b x v = .next t ∧ t = advance (writeReg (writeVF s b) x v) ∧
      ∀ r, readReg t r = if r = x then v else if r = 15 then flagByte b else readReg s r :=
  ⟨_, rfl, rfl, fun r => by simp [readReg_writeReg, readReg_writeVF]⟩

@[simp] theorem mapAfter_error (f : Fault) (g : State → State) : (f.mapAfter g).error = f.error := by
  cases f <;> rfl

@[simp] theorem mapAfter_after (f : Fault) (g : State → State) : (f.mapAfter g).after = g f.after := by
  cases f <;> rfl

theorem tick_toNat (t : Byte) : (tick t).toNat = t.toNat - 1 := by
  unfold tick
  split
  · rename_i h
    bv_omega
  · omega

end Sys2Proof.Machine
end

