-- ==== Sys2Proof/Laws/PerInstr.lean ====
section
/-!
SUPPORT. A statement about every instruction, proved per constructor: its word selects its own row of the opcode
map (spec/30_encoding.md R50).
-/

namespace Sys2Proof.Laws.OpcodeRow

/-- The word of an instruction, under the mask of its own row, is that row's value. -/
def Statement (i : Instr) : Prop :=
  ∃ r, rows[rowIndex i]? = some r ∧ encode i &&& r.mask = r.value

theorem cls : Statement .cls := ⟨_, rfl, rfl⟩

theorem ret : Statement .ret := ⟨_, rfl, rfl⟩

theorem jp (nnn : Addr12) : Statement (.jp nnn) := ⟨_, rfl, formatA_mask _ _⟩

theorem call (nnn : Addr12) : Statement (.call nnn) := ⟨_, rfl, formatA_mask _ _⟩

theorem seVxNn (x : Reg) (nn : Byte) : Statement (.seVxNn x nn) := ⟨_, rfl, formatXK_maskOp _ _ _⟩

theorem sneVxNn (x : Reg) (nn : Byte) : Statement (.sneVxNn x nn) := ⟨_, rfl, formatXK_maskOp _ _ _⟩

theorem seVxVy (x y : Reg) : Statement (.seVxVy x y) := ⟨_, rfl, formatXYN_maskFunction _ _ _ _⟩

theorem ldVxNn (x : Reg) (nn : Byte) : Statement (.ldVxNn x nn) := ⟨_, rfl, formatXK_maskOp _ _ _⟩

theorem addVxNn (x : Reg) (nn : Byte) : Statement (.addVxNn x nn) := ⟨_, rfl, formatXK_maskOp _ _ _⟩

theorem ldVxVy (x y : Reg) : Statement (.ldVxVy x y) := ⟨_, rfl, formatXYN_maskFunction _ _ _ _⟩

theorem orVxVy (x y : Reg) : Statement (.orVxVy x y) := ⟨_, rfl, formatXYN_maskFunction _ _ _ _⟩

theorem andVxVy (x y : Reg) : Statement (.andVxVy x y) := ⟨_, rfl, formatXYN_maskFunction _ _ _ _⟩

theorem xorVxVy (x y : Reg) : Statement (.xorVxVy x y) := ⟨_, rfl, formatXYN_maskFunction _ _ _ _⟩

theorem addVxVy (x y : Reg) : Statement (.addVxVy x y) := ⟨_, rfl, formatXYN_maskFunction _ _ _ _⟩

theorem subVxVy (x y : Reg) : Statement (.subVxVy x y) := ⟨_, rfl, formatXYN_maskFunction _ _ _ _⟩

theorem shrVx (x y : Reg) : Statement (.shrVx x y) := ⟨_, rfl, formatXYN_maskFunction _ _ _ _⟩

theorem subnVxVy (x y : Reg) : Statement (.subnVxVy x y) := ⟨_, rfl, formatXYN_maskFunction _ _ _ _⟩

theorem shlVx (x y : Reg) : Statement (.shlVx x y) := ⟨_, rfl, formatXYN_maskFunction _ _ _ _⟩

theorem sneVxVy (x y : Reg) : Statement (.sneVxVy x y) := ⟨_, rfl, formatXYN_maskFunction _ _ _ _⟩

theorem ldI (nnn : Addr12) : Statement (.ldI nnn) := ⟨_, rfl, formatA_mask _ _⟩

theorem jpV0 (nnn : Addr12) : Statement (.jpV0 nnn) := ⟨_, rfl, formatA_mask _ _⟩

theorem rndVxNn (x : Reg) (nn : Byte) : Statement (.rndVxNn x nn) := ⟨_, rfl, formatXK_maskOp _ _ _⟩

theorem drw (x y : Reg) (n : RowCount) : Statement (.drw x y n) := ⟨_, rfl, formatXYN_maskOp _ _ _ _⟩

theorem skp (x : Reg) : Statement (.skp x) := ⟨_, rfl, formatXK_maskFunction _ _ _⟩

theorem sknp (x : Reg) : Statement (.sknp x) := ⟨_, rfl, formatXK_maskFunction _ _ _⟩

theorem ldVxDt (x : Reg) : Statement (.ldVxDt x) := ⟨_, rfl, formatXK_maskFunction _ _ _⟩

theorem ldVxK (x : Reg) : Statement (.ldVxK x) := ⟨_, rfl, formatXK_maskFunction _ _ _⟩

theorem ldDtVx (x : Reg) : Statement (.ldDtVx x) := ⟨_, rfl, formatXK_maskFunction _ _ _⟩

theorem ldStVx (x : Reg) : Statement (.ldStVx x) := ⟨_, rfl, formatXK_maskFunction _ _ _⟩

theorem addIVx (x : Reg) : Statement (.addIVx x) := ⟨_, rfl, formatXK_maskFunction _ _ _⟩

theorem ldFVx (x : Reg) : Statement (.ldFVx x) := ⟨_, rfl, formatXK_maskFunction _ _ _⟩

theorem ldBVx (x : Reg) : Statement (.ldBVx x) := ⟨_, rfl, formatXK_maskFunction _ _ _⟩

theorem ldMemVx (x : Reg) : Statement (.ldMemVx x) := ⟨_, rfl, formatXK_maskFunction _ _ _⟩

theorem ldVxMem (x : Reg) : Statement (.ldVxMem x) := ⟨_, rfl, formatXK_maskFunction _ _ _⟩

end Sys2Proof.Laws.OpcodeRow
end

