-- ==== Sys2Proof/Laws/Step.lean ====
section
/-!
SUPPORT. What a step can do, said once: fetch and decode, the end of a step, and the three outcomes of the whole.
-/

namespace Sys2Proof.Machine

/-- Fetch and decode give an instruction exactly when both bytes lie in memory and the word is one (R61, R62). -/
theorem fetchDecode_eq_ok (s : State) (i : Instr) :
    fetchDecode s = .ok i ↔
      s.pc.toNat ≤ 0xFFE ∧ decodeWord (memRead2 s.mem s.pc.toNat) = some i := by
  unfold fetchDecode
  split
  · rename_i h
    have := (memRangeOk_iff _ _).mp h
    have h' : s.pc.toNat ≤ 0xFFE := by omega
    split <;> simp_all
  · rename_i h
    have := mt (memRangeOk_iff s.pc.toNat 2).mpr h
    simp only [reduceCtorEq, false_iff, not_and]
    omega

/-- The errors of fetch and decode, over the unchanged state (R61, R62). -/
theorem fetchDecode_eq_error (s : State) (f : Fault) :
    fetchDecode s = .error f ↔
      (0xFFE < s.pc.toNat ∧ f = .memoryOutOfRange (lowestBad s.pc.toNat) s) ∨
      (s.pc.toNat ≤ 0xFFE ∧ decodeWord (memRead2 s.mem s.pc.toNat) = none ∧
        f = .unknownOpcode (memRead2 s.mem s.pc.toNat) s) := by
  unfold fetchDecode
  split
  · rename_i h
    have := (memRangeOk_iff _ _).mp h
    have h' : s.pc.toNat ≤ 0xFFE := by omega
    have h'' : ¬ 0xFFE < s.pc.toNat := by omega
    split
    · rename_i hd
      simp [h'', hd]
    · rename_i hd
      simp only [Except.error.injEq, h', h'', hd, true_and, false_and, false_or]
      exact eq_comm
  · rename_i h
    have := mt (memRangeOk_iff s.pc.toNat 2).mpr h
    have h' : 0xFFE < s.pc.toNat := by omega
    have h'' : ¬ s.pc.toNat ≤ 0xFFE := by omega
    simp only [Except.error.injEq, h', h'', true_and, false_and, or_false]
    exact eq_comm

theorem finish_eq_next (o : Host.Outcome State Fault Refusal) (t : State) :
    finish o = .next t ↔ ∃ u, o = .next u ∧ t = endStep u := by
  cases o <;> simp [finish, eq_comm]

theorem finish_eq_fault (o : Host.Outcome State Fault Refusal) (f : Fault) :
    finish o = .fault f ↔ ∃ g, o = .fault g ∧ f = g.mapAfter endStep := by
  cases o <;> simp [finish, eq_comm]

theorem fetchDecodeExecute_eq_next (s u : State) :
    fetchDecodeExecute s = .next u ↔ ∃ i, fetchDecode s = .ok i ∧ exec i s = .next u := by
  unfold fetchDecodeExecute
  split <;> simp_all

theorem fetchDecodeExecute_eq_fault (s : State) (f : Fault) :
    fetchDecodeExecute s = .fault f ↔
      fetchDecode s = .error f ∨ ∃ i, fetchDecode s = .ok i ∧ exec i s = .fault f := by
  unfold fetchDecodeExecute
  split <;> simp_all

/-- A step that answers a next state fetched and decoded an instruction, executed it, and ticked. -/
theorem step_eq_next (s t : State) :
    step s = .next t ↔ ∃ i u, fetchDecode s = .ok i ∧ exec i s = .next u ∧ t = endStep u := by
  unfold step
  rw [finish_eq_next]
  constructor
  · rintro ⟨u, hu, rfl⟩
    obtain ⟨i, hi, he⟩ := (fetchDecodeExecute_eq_next s u).mp hu
    exact ⟨i, u, hi, he, rfl⟩
  · rintro ⟨i, u, hi, he, rfl⟩
    exact ⟨u, (fetchDecodeExecute_eq_next s u).mpr ⟨i, hi, he⟩, rfl⟩

/-- A step that reports an error met it in fetch or decode, or in the instruction, and ticked. -/
theorem step_eq_fault (s : State) (f : Fault) :
    step s = .fault f ↔ ∃ g, f = g.mapAfter endStep ∧
      (fetchDecode s = .error g ∨ ∃ i, fetchDecode s = .ok i ∧ exec i s = .fault g) := by
  unfold step
  rw [finish_eq_fault]
  constructor
  · rintro ⟨g, hg, rfl⟩
    exact ⟨g, rfl, (fetchDecodeExecute_eq_fault s g).mp hg⟩
  · rintro ⟨g, rfl, h⟩
    exact ⟨g, (fetchDecodeExecute_eq_fault s g).mpr h, rfl⟩

end Sys2Proof.Machine
end

