-- ==== Sys2Proof/Laws/Safety.lean ====
section
/-!
SUPPORT. The terms of Sys2Proof/Safety.lean: what each piece of the frame compares, and the laws of frames.
-/

namespace Sys2Proof.Machine

variable (s t u : State)

@[simp] theorem samePiece_reg (r : Reg) : samePiece s t (.reg r) ↔ readReg t r = readReg s r := Iff.rfl
@[simp] theorem samePiece_I : samePiece s t .I ↔ t.I = s.I := Iff.rfl
@[simp] theorem samePiece_pc : samePiece s t .pc ↔ t.pc = s.pc := Iff.rfl
@[simp] theorem samePiece_mem (a : Nat) : samePiece s t (.mem a) ↔ memRead t.mem a = memRead s.mem a := Iff.rfl
@[simp] theorem samePiece_slot (k : Fin 16) : samePiece s t (.slot k) ↔ t.stack[k] = s.stack[k] := Iff.rfl
@[simp] theorem samePiece_sp : samePiece s t .sp ↔ t.sp = s.sp := Iff.rfl
@[simp] theorem samePiece_dt : samePiece s t .dt ↔ t.dt = s.dt := Iff.rfl
@[simp] theorem samePiece_st : samePiece s t .st ↔ t.st = s.st := Iff.rfl
@[simp] theorem samePiece_cell (y : Fin 32) (x : Fin 64) :
    samePiece s t (.cell y x) ↔ cell t.fb y x = cell s.fb y x := Iff.rfl
@[simp] theorem samePiece_key (k : Key) : samePiece s t (.key k) ↔ keyDown t k = keyDown s k := Iff.rfl
@[simp] theorem samePiece_drawFlag : samePiece s t .drawFlag ↔ t.drawFlag = s.drawFlag := Iff.rfl
@[simp] theorem samePiece_beepFlag : samePiece s t .beepFlag ↔ t.beepFlag = s.beepFlag := Iff.rfl
@[simp] theorem samePiece_rnd :
    samePiece s t .rnd ↔ t.rndQueue = s.rndQueue ∧ t.rndIndex = s.rndIndex := Iff.rfl

@[simp] theorem pieces_iff (ps : List Piece) (p : Piece) : pieces ps p ↔ p ∈ ps := Iff.rfl

theorem samePiece_refl (p : Piece) : samePiece s s p := by cases p <;> simp

theorem unchangedBut_refl (written : Piece → Prop) : unchangedBut written s s :=
  fun p _ => samePiece_refl s p

theorem samePiece_trans (p : Piece) (h : samePiece s t p) (h' : samePiece t u p) : samePiece s u p := by
  cases p <;> simp_all

theorem unchangedBut_trans (written : Piece → Prop) (h : unchangedBut written s t)
    (h' : unchangedBut written t u) : unchangedBut written s u :=
  fun p hp => samePiece_trans s t u p (h p hp) (h' p hp)

end Sys2Proof.Machine
end

