-- ==== Sys2Proof/Tests/Slice0.lean ====
section
/-!
SUPPORT. The model's own tests: well-formedness, decoding of words written out from the spec's encodings, single
steps whose results stand in spec/95_test_vectors.md (the vector is named in each comment), and a witness
for the hypotheses of each statement of Sys2Proof/Certificates/Slice0/Obligations.lean.
-/

namespace Sys2Proof.Tests

open Sys2Proof.Machine

/-! Well-formedness: each check refuses a term that does not fit, and accepts the largest that does. -/

theorem test_reg_refuses_16 : reg? 16 = none ∧ reg? 15 = some 15 := by decide
theorem test_rowCount_refuses_16 : rowCount? 16 = none ∧ rowCount? 15 = some 15 := by decide
theorem test_byte_refuses_256 : byte? 256 = none ∧ byte? 255 = some 0xFF := by decide
theorem test_addr12_refuses_4096 : addr12? 4096 = none ∧ addr12? 4095 = some 0xFFF := by decide
theorem test_rom_refuses_3585 :
    romFits (List.replicate 3585 0) = false ∧ romFits (List.replicate 3584 0) = true := by
  unfold romFits
  rw [List.length_replicate, List.length_replicate]
  decide

/-! Decoding: for every row of R50 a word written out from its pattern, X = A, Y = B, NNN = ABC or 2F0. -/

theorem test_decode_rows_1_to_9 :
    decodeWord 0x00E0 = some .cls ∧ decodeWord 0x00EE = some .ret ∧
    decodeWord 0x1ABC = some (.jp 0xABC) ∧ decodeWord 0x2ABC = some (.call 0xABC) ∧
    decodeWord 0x3A42 = some (.seVxNn 0xA 0x42) ∧ decodeWord 0x4A42 = some (.sneVxNn 0xA 0x42) ∧
    decodeWord 0x5AB0 = some (.seVxVy 0xA 0xB) ∧ decodeWord 0x6AFF = some (.ldVxNn 0xA 0xFF) ∧
    decodeWord 0x7A01 = some (.addVxNn 0xA 0x01) := by decide

theorem test_decode_rows_10_to_18 :
    decodeWord 0x8AB0 = some (.ldVxVy 0xA 0xB) ∧ decodeWord 0x8AB1 = some (.orVxVy 0xA 0xB) ∧
    decodeWord 0x8AB2 = some (.andVxVy 0xA 0xB) ∧ decodeWord 0x8AB3 = some (.xorVxVy 0xA 0xB) ∧
    decodeWord 0x8AB4 = some (.addVxVy 0xA 0xB) ∧ decodeWord 0x8AB5 = some (.subVxVy 0xA 0xB) ∧
    decodeWord 0x8AB6 = some (.shrVx 0xA 0xB) ∧ decodeWord 0x8AB7 = some (.subnVxVy 0xA 0xB) ∧
    decodeWord 0x8ABE = some (.shlVx 0xA 0xB) := by decide

theorem test_decode_rows_19_to_25 :
    decodeWord 0x9AB0 = some (.sneVxVy 0xA 0xB) ∧ decodeWord 0xA2F0 = some (.ldI 0x2F0) ∧
    decodeWord 0xBABC = some (.jpV0 0xABC) ∧ decodeWord 0xC7A5 = some (.rndVxNn 7 0xA5) ∧
    decodeWord 0xD123 = some (.drw 1 2 3) ∧ decodeWord 0xEA9E = some (.skp 0xA) ∧
    decodeWord 0xEAA1 = some (.sknp 0xA) := by decide

theorem test_decode_rows_26_to_34 :
    decodeWord 0xFA07 = some (.ldVxDt 0xA) ∧ decodeWord 0xFA0A = some (.ldVxK 0xA) ∧
    decodeWord 0xFA15 = some (.ldDtVx 0xA) ∧ decodeWord 0xFA18 = some (.ldStVx 0xA) ∧
    decodeWord 0xFA1E = some (.addIVx 0xA) ∧ decodeWord 0xFA29 = some (.ldFVx 0xA) ∧
    decodeWord 0xFA33 = some (.ldBVx 0xA) ∧ decodeWord 0xFA55 = some (.ldMemVx 0xA) ∧
    decodeWord 0xFA65 = some (.ldVxMem 0xA) := by decide

/-- V1: unknown words of groups 0, 5, 8 and 9. -/
theorem test_unknown_words_0_to_9 :
    decodeWord 0x0000 = none ∧ decodeWord 0x0123 = none ∧ decodeWord 0x00E1 = none ∧
    decodeWord 0x00FE = none ∧ decodeWord 0x0EE0 = none ∧ decodeWord 0x5AB1 = none ∧
    decodeWord 0x9AB1 = none ∧ decodeWord 0x8AB8 = none ∧ decodeWord 0x8ABD = none ∧
    decodeWord 0x8ABF = none := by decide

/-- V1: unknown words of groups E and F. -/
theorem test_unknown_words_E_and_F :
    decodeWord 0xEA9F = none ∧ decodeWord 0xEA00 = none ∧ decodeWord 0xEAA0 = none ∧
    decodeWord 0xFA00 = none ∧ decodeWord 0xFA1F = none ∧ decodeWord 0xFA75 = none ∧
    decodeWord 0xFA85 = none ∧ decodeWord 0xF000 = none ∧ decodeWord 0xFFFF = none := by decide

/-- R50: 34 rows, and no two of them select one word. -/
theorem test_rows_disjoint : rows.length = 34 ∧
    rows.Pairwise (fun a b => a.value &&& b.mask ≠ b.value &&& a.mask) := by decide

/-- The bytes of a word, high byte first; a single byte is no instruction (R32, R45). -/
theorem test_decode_bytes : decode [0xA2, 0xF0, 0x77] = .ok (.ldI 0x2F0, [0x77]) ∧
    decode [0xA2] = .error .truncated := ⟨rfl, rfl⟩

/-! One step. The start state is the state after reset with a few registers set; the word stands at `pc`. -/

/-- The state after reset with these registers set. -/
def withRegs (l : List (Reg × Byte)) : State := l.foldl (fun s p => writeReg s p.1 p.2) State.reset

/-- The state with bytes stored at an address. -/
def withBytes (s : State) (a : Nat) (bs : List Byte) : State := writeMem s (storeBytes s.mem a bs)

/-- The state with this cell flipped. -/
def withCell (s : State) (y : Fin 32) (x : Fin 64) : State := { s with fb := flipCell s.fb y x }

/-- The state with these keys down. -/
def withKeys (s : State) (l : List Key) : State :=
  l.foldl (fun t k => (applyHostOp (.writeKey k true) t).1) s

/-- A view of the state after one step of a word, if the step is `Ok`. -/
def after {α : Type} (s : State) (w : Nat) (view : State → α) : Option α :=
  match step (s.withFetchWord 16 w) with
  | .next t => some (view t)
  | .fault _ => none
  | .refused _ => none

/-- The error of one step of a word, and a view of the state after it. -/
def errorAfter {α : Type} (s : State) (w : Nat) (view : State → α) : Option (CoreError × α) :=
  match step (s.withFetchWord 16 w) with
  | .next _ => none
  | .fault f => some (f.error, view f.after)
  | .refused _ => none

-- V5, first row
theorem test_cls : after { withCell (withCell State.reset 5 5) 31 63 with drawFlag := false } 0x00E0
    (fun t => (t.fb, t.drawFlag, t.pc)) = some (State.reset.fb, true, 0x202) := by decide
-- V2: the 16-bit wrap of 0xFFFF + 2, and underflow
theorem test_ret_wraps : after { State.reset with sp := 2, stack := State.reset.stack.set 1 0xFFFF } 0x00EE
    (fun t => (t.pc, t.sp)) = some (0x0001, 1) := by decide
-- V7: 0x00EE with nothing pushed, the timers tick
theorem test_ret_underflow : errorAfter { State.reset with dt := 3, st := 1 } 0x00EE
    (fun t => (t.pc, t.sp, t.dt, t.st, t.beepFlag)) = some (.stackUnderflow, 0x200, 0, 2, 0, true) := by
  decide
-- V2
theorem test_jp : after State.reset 0x1ABC State.pc = some 0xABC := by decide
-- V2: 0x2ABC at 0x7FE with fifteen entries
theorem test_call : after { State.reset with sp := 15, pc := 0x7FE } 0x2ABC
    (fun t => (t.stack[15], t.sp, t.pc)) = some (0x7FE, 16, 0xABC) := by decide
-- V2
theorem test_call_overflow : errorAfter { State.reset with sp := 16 } 0x2ABC
    (fun t => (t.pc, t.sp)) = some (.stackOverflow, 0x200, 16) := by decide
-- V2
theorem test_seVxNn : after (withRegs [(0xA, 0x42)]) 0x3A42 State.pc = some 0x204 ∧
    after (withRegs [(0xA, 0x43)]) 0x3A42 State.pc = some 0x202 := by decide
-- V2: 0x3A42 at 0xFFE
theorem test_skip_at_top : after { withRegs [(0xA, 0x42)] with pc := 0xFFE } 0x3A42 State.pc = some 0x1002 := by
  decide
-- V2
theorem test_sneVxNn : after (withRegs [(0xA, 0x42)]) 0x4A42 State.pc = some 0x202 ∧
    after (withRegs [(0xA, 0x43)]) 0x4A42 State.pc = some 0x204 := by decide
-- V2
theorem test_seVxVy : after (withRegs [(0xA, 7), (0xB, 7)]) 0x5AB0 State.pc = some 0x204 ∧
    after (withRegs [(0xA, 7), (0xB, 8)]) 0x5AB0 State.pc = some 0x202 := by decide
-- V2
theorem test_sneVxVy : after (withRegs [(0xA, 7), (0xB, 7)]) 0x9AB0 State.pc = some 0x202 ∧
    after (withRegs [(0xA, 7), (0xB, 8)]) 0x9AB0 State.pc = some 0x204 := by decide
-- V2: no 12-bit mask
theorem test_jpV0 : after (withRegs [(0, 0xFF)]) 0xBFFF State.pc = some 0x10FE := by decide
-- V3
theorem test_ldVxNn : after (withRegs [(0xF, 0)]) 0x6F12 (readReg · 0xF) = some 0x12 := by decide
-- V3: wraps, no carry flag
theorem test_addVxNn : after (withRegs [(0xA, 0xFF)]) 0x7A01 (fun t => (readReg t 0xA, readReg t 0xF)) =
    some (0, 0) := by decide
-- V3
theorem test_ldVxVy : after (withRegs [(0xA, 1), (0xB, 0x99)]) 0x8AB0
    (fun t => (readReg t 0xA, readReg t 0xB)) = some (0x99, 0x99) := by decide
-- V3: VF untouched
theorem test_orVxVy : after (withRegs [(0xA, 0xF0), (0xB, 0x0F), (0xF, 0x77)]) 0x8AB1
    (fun t => (readReg t 0xA, readReg t 0xF)) = some (0xFF, 0x77) := by decide
-- V3
theorem test_andVxVy : after (withRegs [(0xA, 0xF3), (0xB, 0x3F), (0xF, 0x77)]) 0x8AB2
    (fun t => (readReg t 0xA, readReg t 0xF)) = some (0x33, 0x77) := by decide
-- V3
theorem test_xorVxVy : after (withRegs [(0xA, 0xFF), (0xB, 0x0F), (0xF, 0x77)]) 0x8AB3
    (fun t => (readReg t 0xA, readReg t 0xF)) = some (0xF0, 0x77) := by decide
-- V3, S3; the sum 0xFF exactly is no carry
theorem test_addVxVy : after (withRegs [(0xA, 0xFF), (0xB, 0x01)]) 0x8AB4
    (fun t => (readReg t 0xA, readReg t 0xF)) = some (0, 1) ∧
    after (withRegs [(0xA, 0x80), (0xB, 0x7F), (0xF, 1)]) 0x8AB4
    (fun t => (readReg t 0xA, readReg t 0xF)) = some (0xFF, 0) := by decide
-- V3: X = 15 keeps the result, Y = 15 is the old VF (D7)
theorem test_addVxVy_aliases : after (withRegs [(0xF, 0xFF), (0xB, 0x02)]) 0x8FB4 (readReg · 0xF) = some 1 ∧
    after (withRegs [(0xA, 0xFF), (0xF, 0x01)]) 0x8AF4
    (fun t => (readReg t 0xA, readReg t 0xF)) = some (0, 1) := by decide
-- V3
theorem test_subVxVy : after (withRegs [(0xA, 3), (0xB, 5)]) 0x8AB5
    (fun t => (readReg t 0xA, readReg t 0xF)) = some (0xFE, 0) ∧
    after (withRegs [(0xA, 5), (0xB, 5)]) 0x8AB5
    (fun t => (readReg t 0xA, readReg t 0xF)) = some (0, 1) := by decide
-- V3 (D7)
theorem test_subVxVy_aliases : after (withRegs [(0xF, 5), (0xB, 3)]) 0x8FB5 (readReg · 0xF) = some 2 ∧
    after (withRegs [(0xA, 5), (0xF, 7)]) 0x8AF5
    (fun t => (readReg t 0xA, readReg t 0xF)) = some (0xFE, 0) := by decide
-- V3: VB ignored; X = 15 (D7)
theorem test_shrVx : after (withRegs [(0xA, 5), (0xB, 0xFF)]) 0x8AB6
    (fun t => (readReg t 0xA, readReg t 0xF)) = some (2, 1) ∧
    after (withRegs [(0xF, 3)]) 0x8FB6 (readReg · 0xF) = some 1 := by decide
-- V3
theorem test_subnVxVy : after (withRegs [(0xA, 5), (0xB, 3)]) 0x8AB7
    (fun t => (readReg t 0xA, readReg t 0xF)) = some (0xFE, 0) ∧
    after (withRegs [(0xA, 3), (0xF, 9)]) 0x8AF7
    (fun t => (readReg t 0xA, readReg t 0xF)) = some (6, 1) := by decide
-- V3, S10: X is w[11:8]; X = 15 (D7)
theorem test_shlVx : after (withRegs [(9, 0xC0), (2, 0x55)]) 0x89BE
    (fun t => (readReg t 9, readReg t 2, readReg t 0xF)) = some (0x80, 0x55, 1) ∧
    after (withRegs [(0xF, 0x81)]) 0x8FBE (readReg · 0xF) = some 2 := by decide
-- V3, with the host's random byte 0xA7
theorem test_rndVxNn : after (supplyRnd 0xA7 State.reset) 0xCA0F
    (fun t => (readReg t 0xA, t.rndQueue)) = some (7, []) := by decide
-- V3: 0xCA00 gives 0
theorem test_rndVxNn_zero : after (supplyRnd 0xA7 (withRegs [(0xA, 0x55)])) 0xCA00 (readReg · 0xA) =
    some 0 := by decide
-- V4
theorem test_ldI : after { State.reset with I := 0x555 } 0xAFFF State.I = some 0x0FFF := by decide
-- V4: the exact sum, the wrap, and the old VF as operand
theorem test_addIVx : after { withRegs [(0xA, 1)] with I := 0xFFFF } 0xFA1E
    (fun t => (t.I, readReg t 0xF)) = some (0, 1) ∧
    after { withRegs [(0xF, 5)] with I := 0x0010 } 0xFF1E (fun t => (t.I, readReg t 0xF)) =
    some (0x0015, 0) := by decide
-- V4: the boundary of the flag
theorem test_addIVx_flag : after { withRegs [(0xA, 1)] with I := 0x0FFE } 0xFA1E
    (fun t => (t.I, readReg t 0xF)) = some (0x0FFF, 0) ∧
    after { withRegs [(0xA, 2)] with I := 0x0FFE } 0xFA1E (fun t => (t.I, readReg t 0xF)) =
    some (0x1000, 1) := by decide
-- V4: no masking
theorem test_ldFVx : after (withRegs [(0xA, 0xFF)]) 0xFA29 State.I = some 0x04FB := by decide
-- V4
theorem test_ldBVx : after { withRegs [(0xA, 0xFE)] with I := 0x300 } 0xFA33
    (fun t => (loadBytes t.mem 0x300 4, t.I)) = some ([2, 5, 4, 0], 0x300) := by decide
-- V4: the whole range is checked first
theorem test_ldBVx_range : errorAfter { withRegs [(0xA, 7)] with I := 0xFFE } 0xFA33
    (fun t => (loadBytes t.mem 0xFFE 2, t.pc)) = some (.memoryOutOfRange 0x1000, [0, 0], 0x200) := by decide
-- V4, S10
theorem test_ldMemVx : after { withRegs [(0, 0x11), (1, 0x22), (2, 0x33), (3, 0x44)] with I := 0x400 } 0xF255
    (fun t => (loadBytes t.mem 0x400 4, t.I)) = some ([0x11, 0x22, 0x33, 0], 0x0403) := by decide
-- V4: one byte at 0xFFF; two bytes fault
theorem test_ldMemVx_top : after { withRegs [(0, 0xAB)] with I := 0xFFF } 0xF055
    (fun t => (memRead t.mem 0xFFF, t.I)) = some (0xAB, 0x1000) ∧
    errorAfter { withRegs [(0, 0xAB), (1, 0xCD)] with I := 0xFFF } 0xF155
    (fun t => (memRead t.mem 0xFFF, t.I)) = some (.memoryOutOfRange 0x1000, 0, 0xFFF) := by decide
-- V4
theorem test_ldVxMem : after { withBytes (withRegs [(3, 0x99)]) 0x400 [0x11, 0x22, 0x33, 0x44] with I := 0x400 }
    0xF265 (fun t => (readReg t 0, readReg t 1, readReg t 2, readReg t 3, t.I)) =
    some (0x11, 0x22, 0x33, 0x99, 0x0403) := by decide
-- V4: reads its own bytes
theorem test_ldVxMem_self : after { State.reset with I := 0x200 } 0xF165
    (fun t => (readReg t 0, readReg t 1, t.I)) = some (0xF1, 0x65, 0x0202) := by decide
-- V5: start column 127 mod 64, start row 255 mod 32
theorem test_drw_wraps : after { withBytes (withRegs [(0, 0x7F), (1, 0xFF)]) 0x300 [0xC0, 0x03] with I := 0x300 }
    0xD012 (fun t => (t.fb, readReg t 0xF)) =
    some ((withCell (withCell (withCell (withCell State.reset 31 63) 31 0) 0 5) 0 6).fb, 0) := by decide
-- V5: a set cell collides; N = 0 with I beyond memory cannot fault
theorem test_drw_collision : after { withCell (withBytes State.reset 0x300 [0x80]) 0 0 with I := 0x300 } 0xD011
    (fun t => (cell t.fb 0 0, readReg t 0xF)) = some (false, 1) ∧
    after { withRegs [(0xF, 7)] with I := 0xFFFF, drawFlag := false } 0xD010
    (fun t => (readReg t 0xF, t.drawFlag)) = some (0, true) := by decide
-- V6: 0x15 mod 16 = 5 (D9)
theorem test_skp : after (withKeys (withRegs [(0xA, 0x15)]) [5]) 0xEA9E State.pc = some 0x204 ∧
    after (withKeys (withRegs [(0xA, 5)]) [4]) 0xEA9E State.pc = some 0x202 := by decide
-- V6
theorem test_sknp : after (withKeys (withRegs [(0xA, 5)]) [5]) 0xEAA1 State.pc = some 0x202 ∧
    after (withRegs [(0xA, 0x10)]) 0xEAA1 State.pc = some 0x204 := by decide
-- V7: the read precedes the tick
theorem test_ldVxDt : after { State.reset with dt := 0x2A } 0xFA07 (fun t => (readReg t 0xA, t.dt)) =
    some (0x2A, 0x29) := by decide
-- V6: the lowest of keys 3, C, F
theorem test_ldVxK : after (withKeys (withRegs [(0xA, 0x99)]) [0xF, 3, 0xC]) 0xFA0A
    (fun t => (readReg t 0xA, t.pc)) = some (3, 0x202) := by decide
-- V6: blocked, the timers tick
theorem test_ldVxK_blocked : after { withRegs [(0xA, 0x99)] with dt := 5, st := 1 } 0xFA0A
    (fun t => (readReg t 0xA, t.pc, t.dt, t.st, t.beepFlag)) = some (0x99, 0x200, 4, 0, true) := by decide
-- V7
theorem test_ldDtVx : after (withRegs [(0xA, 0x0A)]) 0xFA15 State.dt = some 9 := by decide
-- V7: beeps in its own step; cancels without a beep
theorem test_ldStVx : after (withRegs [(0xA, 1)]) 0xFA18 (fun t => (t.st, t.beepFlag)) = some (0, true) ∧
    after { State.reset with st := 1 } 0xFA18 (fun t => (t.st, t.beepFlag)) = some (0, false) := by decide

/-! The step and the host. -/

-- V2, V7: a fetch at 0xFFF and at 0x10FE
theorem test_fetch_beyond_memory :
    errorAfter { State.reset with pc := 0xFFF, dt := 3, st := 1 } 0
      (fun t => (t.pc, t.dt, t.st, t.beepFlag)) = some (.memoryOutOfRange 0x1000, 0xFFF, 2, 0, true) ∧
    errorAfter { State.reset with pc := 0x10FE } 0 State.pc = some (.memoryOutOfRange 0x10FE, 0x10FE) := by
  decide
-- V1: an unknown word
theorem test_unknown_step : errorAfter { State.reset with dt := 3, st := 1 } 0x0000
    (fun t => (t.pc, t.dt, t.st, t.beepFlag)) = some (.unknownOpcode 0, 0x200, 2, 0, true) := by decide
-- V2: 0xB000 with V0 = 0, then the font bytes F0 90
theorem test_font_fetch : memRead2 State.reset.mem 0x000 = 0xF090 ∧ font.length = 80 := by decide
-- R142: odd length, R143
theorem test_load : loadBytes (loadRom [0x60, 0xFE, 0xA3] State.reset).1.mem 0x200 4 = [0x60, 0xFE, 0xA3, 0] ∧
    (loadRom [0x60, 0xFE, 0xA3] State.reset).2 = none := by decide
-- R120
theorem test_codes : (CoreError.unknownOpcode 0).code = 1 ∧ CoreError.stackOverflow.code = 2 ∧
    CoreError.stackUnderflow.code = 3 ∧ (CoreError.memoryOutOfRange 0).code = 4 ∧
    CoreError.romTooLarge.code = 5 := by decide
-- R154: 0x1200 at 0x200 is an ended run, 0x1202 is not
theorem test_self_jump : atSelfJump (State.reset.withFetchWord 16 0x1200) = true ∧
    atSelfJump (State.reset.withFetchWord 16 0x1202) = false := by decide

/-! Witnesses: concrete states and operands that meet the hypotheses of the statements. -/

/-- Whether an outcome is a next state. -/
def isNext : Host.Outcome State Fault Refusal → Bool
  | .next _ => true
  | .fault _ => false
  | .refused _ => false

/-- Whether an outcome is a fault. -/
def isFault : Host.Outcome State Fault Refusal → Bool
  | .next _ => false
  | .fault _ => true
  | .refused _ => false

theorem exists_next (o : Host.Outcome State Fault Refusal) (h : isNext o = true) : ∃ t, o = .next t := by
  cases o <;> first | exact ⟨_, rfl⟩ | cases h

theorem exists_fault (o : Host.Outcome State Fault Refusal) (h : isFault o = true) : ∃ f, o = .fault f := by
  cases o <;> first | exact ⟨_, rfl⟩ | cases h

/-- The state after reset with this word placed. -/
def placed (w : Nat) : State := State.reset.withFetchWord 16 w

/-- LoadPlacesTheRom and ResetAndLoadLeaveTheResetTable: the longest ROM, and an address outside it. -/
theorem witness_rom_fits : (List.replicate 3584 (0xAA : Byte)).length ≤ 3584 ∧
    (0x1FF < 0x200 ∨ 0x200 + (List.replicate 3584 (0xAA : Byte)).length ≤ 0x1FF) := by
  rw [List.length_replicate]; decide

/-- LoadOfTooLargeRomOnlyResets: the shortest ROM that is too large. -/
theorem witness_rom_too_large : 3584 < (List.replicate 3585 (0xAA : Byte)).length := by
  rw [List.length_replicate]; decide

/-- DecodedWordsEncodeToThemselves. -/
theorem witness_decoded_word : decodeWord 0x8AB6 = some (.shrVx 0xA 0xB) := by decide

/-- StepRunsTheDecodedInstruction: at the last address a fetch can start from, both outcomes. -/
theorem witness_step_runs :
    (∃ s : State, s.pc.toNat + 1 ≤ 0xFFF ∧
      decodeWord (composeWord (memRead s.mem s.pc.toNat) (memRead s.mem (s.pc.toNat + 1))) = some (.jp 0xABC) ∧
      ∃ u, exec (.jp 0xABC) s = .next u) ∧
    (∃ s : State, s.pc.toNat + 1 ≤ 0xFFF ∧
      decodeWord (composeWord (memRead s.mem s.pc.toNat) (memRead s.mem (s.pc.toNat + 1))) = some .ret ∧
      ∃ g, exec .ret s = .fault g) :=
  ⟨⟨State.withFetchWord { State.reset with pc := 0xFFE } 16 0x1ABC, by decide, by decide,
      exists_next _ (by decide)⟩,
   ⟨State.withFetchWord { State.reset with pc := 0xFFE } 16 0x00EE, by decide, by decide,
      exists_fault _ (by decide)⟩⟩

/-- TimerPhaseEndsEveryStep: phases 1 to 3 with either outcome. -/
theorem witness_phases : (∃ u, fetchDecodeExecute (placed 0x1ABC) = .next u) ∧
    ∃ g, fetchDecodeExecute (placed 0x00EE) = .fault g :=
  ⟨exists_next _ (by decide), exists_fault _ (by decide)⟩

/-- InstructionsRaiseExactlyTheirOwnError: an instruction that faults. -/
theorem witness_exec_fault : ∃ f, exec (.ldBVx 0) { State.reset with I := 0xFFE } = .fault f :=
  exists_fault _ (by decide)

/-- ErroringStepOnlyTicksTimers, ErrorsRepeat, and the second clauses of StepKeepsTheInvariant,
StepsLeaveKeysAndNeverClearFlags and FlagsDoNotInfluenceSteps: a step that reports an error. -/
theorem witness_step_fault : (∃ f, step State.reset = .fault f) ∧ ∃ f, step (placed 0x00EE) = .fault f :=
  ⟨exists_fault _ (by decide), exists_fault _ (by decide)⟩

/-- FetchBeyondMemoryFaults: each clause at its boundary; a fetch at 0xFFE of a word that is unknown. -/
theorem witness_fetch_bounds : 0xFFF ≤ ({ State.reset with pc := 0xFFF } : State).pc.toNat ∧
    ({ State.reset with pc := 0xFFE } : State).pc.toNat < 0xFFF ∧
    ∃ f, fetchDecode { State.reset with pc := 0xFFE } = .error f :=
  ⟨by decide, by decide, _, (fetchDecode_eq_error _ _).mpr (.inr ⟨by decide, by decide, rfl⟩)⟩

/-- UnknownWordFaults. -/
theorem witness_unknown_word : State.reset.pc.toNat < 0xFFF ∧
    (0x0000 : Word) = memRead State.reset.mem State.reset.pc.toNat ++
      memRead State.reset.mem (State.reset.pc.toNat + 1) ∧ decodeWord 0x0000 = none := by decide

/-- PlacedWordIsFetched: at the last address a fetch can start from, a known and an unknown word. -/
theorem witness_placed : ({ State.reset with pc := 0xFFE } : State).pc.toNat < 0xFFF ∧
    decodeTableWord 16 0xFA65 = some (.ldVxMem 0xA) ∧ decodeTableWord 16 0xFA75 = none := by decide

/-- CallPushesItsOwnAddress, ReturnPopsAndAddsTwo: each clause at the ends of its range. -/
theorem witness_stack : ({ State.reset with sp := 15 } : State).sp.val < 16 ∧
    ({ State.reset with sp := 16 } : State).sp.val = 16 ∧ 0 < ({ State.reset with sp := 1 } : State).sp.val ∧
    0 < ({ State.reset with sp := 16 } : State).sp.val ∧ State.reset.sp.val = 0 := by decide

/-- ReturnUndoesCall: a call into the sixteenth slot, then the return in the callee. -/
theorem witness_call_return : ∃ t u : State, exec (.call 0x300) { State.reset with sp := 15 } = .next t ∧
    u.stack = t.stack ∧ u.sp = t.sp := by
  obtain ⟨t, ht⟩ := exists_next (exec (.call 0x300) { State.reset with sp := 15 }) (by decide)
  exact ⟨t, t, ht, rfl, rfl⟩

/-- AddReportsCarry, SubtractionsReportNotBorrow, ShiftsReportTheBitShiftedOut: a destination that is not VF. -/
theorem witness_not_vf : (14 : Reg) ≠ 15 := by decide

/-- RandomByteIsMasked, its bit clause: a set bit of the result. -/
theorem witness_random_bit : after (supplyRnd 0xA7 State.reset) 0xCA0F
    (fun t => (readReg t 0xA).getLsbD 0) = some true := by decide

/-- HostStepSuppliesTheRandomByte. -/
theorem witness_random_fetched : fetchDecode (placed 0xCA0F) = .ok (.rndVxNn 0xA 0x0F) :=
  (fetchDecode_eq_ok _ _).mpr (by decide)

/-- DecimalDigitsAreStored, RegistersAreStored, RegistersAreLoaded: both clauses where they meet. -/
theorem witness_ranges : (0xFFD : Word).toNat + 2 ≤ 0xFFF ∧ (0xFFE : Word).toNat + 2 > 0xFFF ∧
    (0xFF0 : Word).toNat + (15 : Reg).val ≤ 0xFFF ∧ (0xFF1 : Word).toNat + (15 : Reg).val > 0xFFF ∧
    (15 : Reg) ≤ 15 := by decide

/-- StoreThenLoadRestoresRegisters: sixteen registers at the top of memory. -/
theorem witness_store_load : ∃ s t u : State, exec (.ldMemVx 15) s = .next t ∧ u.mem = t.mem ∧ u.I = s.I := by
  obtain ⟨t, ht⟩ := exists_next (exec (.ldMemVx 15) { State.reset with I := 0xFF0 }) (by decide)
  exact ⟨_, t, { t with I := 0xFF0 }, ht, rfl, rfl⟩

/-- StoredBytesAreFetched: V0, V1 = 12 34, stored as the last two bytes of memory. -/
theorem witness_stored_fetched : ∃ s t u : State, exec (.ldMemVx 1) s = .next t ∧ 1 ≤ (1 : Reg).val ∧
    u.mem = t.mem ∧ u.pc = s.I ∧
    decodeWord (composeWord (readReg s 0) (readReg s 1)) = some (.jp 0x234) := by
  obtain ⟨t, ht⟩ := exists_next
    (exec (.ldMemVx 1) { withRegs [(0, 0x12), (1, 0x34)] with I := 0xFFE }) (by decide)
  exact ⟨_, t, { t with pc := 0xFFE }, ht, by decide, rfl, rfl, by decide⟩

/-- DrawXorsTheSprite: both clauses where they meet, and N = 0 beyond memory. -/
theorem witness_draw_ranges : ((0 : RowCount).val = 0 ∨ (0xFFFF : Word).toNat + 0 - 1 ≤ 0xFFF) ∧
    ((1 : RowCount).val = 0 ∨ (0xFFF : Word).toNat + 1 - 1 ≤ 0xFFF) ∧
    ¬ ((2 : RowCount).val = 0 ∨ (0xFFF : Word).toNat + 2 - 1 ≤ 0xFFF) := by decide

/-- A sprite inside memory is drawn. -/
theorem drw_next (x y : Reg) (n : RowCount) (s : State) (h : n.val = 0 ∨ s.I.toNat + n.val ≤ 0x1000) :
    ∃ v, exec (.drw x y n) s = .next v :=
  ⟨_, (checkRange_eq_next _ _ s _ _).mpr ⟨h, rfl⟩⟩

/-- DrawingTwiceRestoresTheFramebuffer, with VF as both coordinates. -/
theorem witness_draw_twice : ∃ s t u v : State, exec (.drw 15 15 5) s = .next t ∧ u.fb = t.fb ∧ u.mem = s.mem ∧
    u.I = s.I ∧ readReg u 15 = readReg s 15 ∧ exec (.drw 15 15 5) u = .next v := by
  obtain ⟨t, ht⟩ := exists_next (exec (.drw 15 15 5) (withRegs [(15, 0x3E)])) (by decide)
  refine ⟨withRegs [(15, 0x3E)], t, { withRegs [(15, 0x3E)] with fb := t.fb }, ?_⟩
  have hI : (withRegs [(15, 0x3E)]).I.toNat + 5 ≤ 0x1000 := by decide
  obtain ⟨v, hv⟩ := drw_next 15 15 5 { withRegs [(15, 0x3E)] with fb := t.fb } (.inr hI)
  exact ⟨v, ht, rfl, rfl, rfl, rfl, hv⟩

/-- KeyWaitTakesTheLeastPressedKey, UnansweredKeyWaitOnlyTicks: key 3 is the least of 3 and 9; no key at all. -/
theorem witness_keys : (withKeys State.reset [9, 3]).keys[(3 : Key)] = true ∧
    (∀ j : Key, j < 3 → (withKeys State.reset [9, 3]).keys[j] = false) ∧
    (∀ k : Key, (placed 0xFA0A).keys[k] = false) := by decide

theorem witness_key_wait : fetchDecode (placed 0xFA0A) = .ok (.ldVxK 0xA) :=
  (fetchDecode_eq_ok _ _).mpr (by decide)

/-- TimersTickInTheStepThatUsesThem: each clause. -/
theorem witness_timer_words : fetchDecode (placed 0xFA07) = .ok (.ldVxDt 0xA) ∧
    fetchDecode (placed 0xFA15) = .ok (.ldDtVx 0xA) ∧ fetchDecode (placed 0xFA18) = .ok (.ldStVx 0xA) :=
  ⟨(fetchDecode_eq_ok _ _).mpr (by decide), (fetchDecode_eq_ok _ _).mpr (by decide),
   (fetchDecode_eq_ok _ _).mpr (by decide)⟩

/-- The statements about all instructions that write no memory, special register, stack or framebuffer: one
instruction that is outside all their exceptions completes. -/
theorem witness_frames : (∃ t, exec (.ldVxNn 1 7) State.reset = .next t) ∧
    (∀ x, Instr.ldVxNn 1 7 ≠ .ldBVx x) ∧ (∀ x, Instr.ldVxNn 1 7 ≠ .ldMemVx x) ∧
    (∀ n, Instr.ldVxNn 1 7 ≠ .ldI n) ∧ (∀ x, Instr.ldVxNn 1 7 ≠ .ldDtVx x) ∧
    (∀ x, Instr.ldVxNn 1 7 ≠ .ldStVx x) ∧ (∀ n, Instr.ldVxNn 1 7 ≠ .call n) ∧
    (∀ x, Instr.ldVxNn 1 7 ≠ .addIVx x ∧ Instr.ldVxNn 1 7 ≠ .ldFVx x ∧ Instr.ldVxNn 1 7 ≠ .ldMemVx x ∧
      Instr.ldVxNn 1 7 ≠ .ldVxMem x) ∧ Instr.ldVxNn 1 7 ≠ .ret ∧ Instr.ldVxNn 1 7 ≠ .cls ∧
    (∀ x y n, Instr.ldVxNn 1 7 ≠ .drw x y n) ∧ ¬ mayWriteReg (.ldVxNn 1 7) 15 := by
  refine ⟨exists_next _ (by decide), ?_⟩
  simp [mayWriteReg]

/-- The first clauses of StepKeepsTheInvariant, StepsLeaveKeysAndNeverClearFlags and FlagsDoNotInfluenceSteps: a step
that completes. -/
theorem witness_step_next : fetchDecode (placed 0x6107) = .ok (.ldVxNn 1 7) ∧
    ∃ t, step (placed 0x6107) = .next t :=
  ⟨(fetchDecode_eq_ok _ _).mpr (by decide), exists_next _ (by decide)⟩

/-- A fetch gives one instruction. -/
theorem fetched_unique (s : State) (i j : Instr) (h : fetchDecode s = .ok i) (hj : fetchDecode s = .ok j) :
    j = i := by
  rw [h] at hj
  injection hj with e
  exact e.symm

/-- InputsMatterOnlyToTheirReaders, keys: a CXNN that completes, and a 00EE that faults. -/
theorem witness_keys_unread :
    ((∀ i, fetchDecode (placed 0xCA0F) = .ok i → ∀ x, i ≠ .skp x ∧ i ≠ .sknp x ∧ i ≠ .ldVxK x) ∧
      ∃ t, step (placed 0xCA0F) = .next t) ∧
    (∀ i, fetchDecode (placed 0x00EE) = .ok i → ∀ x, i ≠ .skp x ∧ i ≠ .sknp x ∧ i ≠ .ldVxK x) ∧
      ∃ f, step (placed 0x00EE) = .fault f := by
  refine ⟨⟨fun i hi x => ?_, exists_next _ (by decide)⟩, fun i hi x => ?_, exists_fault _ (by decide)⟩
  · rw [fetched_unique _ (.rndVxNn 0xA 0x0F) i ((fetchDecode_eq_ok _ _).mpr (by decide)) hi]
    simp
  · rw [fetched_unique _ .ret i ((fetchDecode_eq_ok _ _).mpr (by decide)) hi]
    simp

/-- InputsMatterOnlyToTheirReaders, the random byte: an EX9E that completes, and an unknown word. -/
theorem witness_rnd_unread :
    ((∀ i, fetchDecode (placed 0xEA9E) = .ok i → ∀ x nn, i ≠ .rndVxNn x nn) ∧
      ∃ t, step (placed 0xEA9E) = .next t) ∧
    (∀ i, fetchDecode State.reset = .ok i → ∀ x nn, i ≠ .rndVxNn x nn) ∧
      ∃ f, step State.reset = .fault f := by
  refine ⟨⟨fun i hi x nn => ?_, exists_next _ (by decide)⟩, fun i hi x nn => ?_, exists_fault _ (by decide)⟩
  · rw [fetched_unique _ (.skp 0xA) i ((fetchDecode_eq_ok _ _).mpr (by decide)) hi]
    simp
  · have := ((fetchDecode_eq_ok _ _).mp hi).2
    rw [show decodeWord (memRead2 State.reset.mem State.reset.pc.toNat) = none by decide] at this
    cases this

/-- StepsLeaveKeysAndNeverClearFlags: both flags set before the step. -/
theorem witness_flags : ({ placed 0x6107 with beepFlag := true } : State).drawFlag = true ∧
    ({ placed 0x6107 with beepFlag := true } : State).beepFlag = true := by decide

/-- SelfJumpOnlyTicks. -/
theorem witness_self_jump : atSelfJump (placed 0x1200) = true := by decide

/-- StepKeepsTheInvariant, HostOperationsKeepTheInvariant: an ordinary state, and one at the bounds of the
invariant. -/
theorem witness_invariant : StateInv (placed 0x6107) ∧
    StateInv { State.reset with pc := 0x10FE, sp := 1, stack := State.reset.stack.set 0 0xFFE } := by
  unfold StateInv Memory.wf; decide

/-- CanonicalMemoriesReadingAlikeAreEqual: a memory with entries at both ends. -/
theorem witness_canonical : Memory.wf [(0x000, 0x01), (0xFFF, 0x02)] ∧
    ∀ a, memRead [(0x000, 0x01), (0xFFF, 0x02)] a = memRead [(0x000, 0x01), (0xFFF, 0x02)] a :=
  ⟨by unfold Memory.wf; decide, fun _ => rfl⟩

end Sys2Proof.Tests
end

section
/-!
SUPPORT. What the execute phase can do, said once (spec/40_step_cycle.md R63 to R65): the shape of the state a completed
instruction leaves, and the state a fault carries. The frames and the invariant below are read off it.
-/

namespace Sys2Proof.Machine

/-- The shapes of the state an instruction leaves when it completes, with the guard under which it does. A shape
that several instruction forms share says which registers it may write; the others name their instruction. -/
inductive ExecEffect (s : State) : Instr → State → Prop
  | result {i : Instr} {x : Reg} (v : Byte) (hx : mayWriteReg i x) :
      ExecEffect s i (advance (writeReg s x v))
  | flagResult {i : Instr} {x : Reg} (b : Bool) (v : Byte) (hx : mayWriteReg i x) (hf : mayWriteReg i 15) :
      ExecEffect s i (advance (writeReg (writeVF s b) x v))
  | skip {i : Instr} (c : Bool) : ExecEffect s i (skipIf c s)
  | jump {i : Instr} (target : Word) (h : target.toNat ≤ 0x10FE) : ExecEffect s i (jumpTo s target)
  | call (nnn : Addr12) (h : s.sp.val < 16) :
      ExecEffect s (.call nnn) (jumpTo (push s s.pc h) (addrOperand nnn))
  | ret (h : 0 < s.sp.val) : ExecEffect s .ret (jumpTo (pop s) (stackTop s h + 2))
  | cls : ExecEffect s .cls (advance (redraw s clearFb))
  | drw (x y : Reg) (n : RowCount) (h : n.val = 0 ∨ s.I.toNat + n.val ≤ 0x1000) :
      ExecEffect s (.drw x y n)
        (advance (writeVF (redraw s (drawSprite s x y n).1) (drawSprite s x y n).2))
  | ldI (nnn : Addr12) : ExecEffect s (.ldI nnn) (advance (writeI s (addrOperand nnn)))
  | ldFVx (x : Reg) : ExecEffect s (.ldFVx x) (advance (writeI s (glyphAddr (readReg s x))))
  | addIVx (x : Reg) : ExecEffect s (.addIVx x)
      (advance (writeI (writeVF s (indexOverflow s.I (readReg s x))) (s.I + (readReg s x).setWidth 16)))
  | ldBVx (x : Reg) (h : s.I.toNat + 3 ≤ 0x1000) : ExecEffect s (.ldBVx x)
      (advance (writeMem s (storeBytes s.mem s.I.toNat (decimalDigits (readReg s x)))))
  | ldMemVx (x : Reg) (h : s.I.toNat + transferCount x ≤ 0x1000) : ExecEffect s (.ldMemVx x)
      (advance (writeI (writeMem s (storeBytes s.mem s.I.toNat (storedRegs s x))) (indexAfter s x)))
  | ldVxMem (x : Reg) (h : s.I.toNat + transferCount x ≤ 0x1000) : ExecEffect s (.ldVxMem x)
      (advance (writeI (writeRegs s (loadedRegs s x)) (indexAfter s x)))
  | ldDtVx (x : Reg) : ExecEffect s (.ldDtVx x) (advance (writeDt s (readReg s x)))
  | ldStVx (x : Reg) : ExecEffect s (.ldStVx x) (advance (writeSt s (readReg s x)))
  | wait (x : Reg) : ExecEffect s (.ldVxK x) s

theorem addrOperand_toNat (nnn : Addr12) : (addrOperand nnn).toNat = nnn.toNat := by
  have := nnn.isLt
  simp only [addrOperand, BitVec.toNat_setWidth]
  omega

/-- The targets of 1NNN and 2NNN lie in memory's address space (R71, R72). -/
theorem addrOperand_le (nnn : Addr12) : (addrOperand nnn).toNat ≤ 0xFFF := by
  have := nnn.isLt
  rw [addrOperand_toNat]
  omega

/-- The highest target of BNNN is 0xFFF + 0xFF (R77). -/
theorem indexedTarget_le (nnn : Addr12) (v : Byte) : (addrOperand nnn + v.setWidth 16).toNat ≤ 0x10FE := by
  have := addrOperand_le nnn
  have := v.isLt
  simp only [BitVec.toNat_add, BitVec.toNat_setWidth]
  omega

/-- A checked access that transfers at least one byte and answers a next state ends below 0x1000 (R36). -/
theorem checkRange_next {base n : Nat} {s t u : State} (hn : n ≠ 0) (h : checkRange base n s t = .next u) :
    base + n ≤ 0x1000 ∧ u = t := by
  obtain ⟨hr, rfl⟩ := (checkRange_eq_next base n s t u).mp h
  exact ⟨hr.resolve_left hn, rfl⟩

/-- Every completed instruction has one of the shapes. -/
theorem exec_effect {i : Instr} {s t : State} (h : exec i s = .next t) : ExecEffect s i t := by
  cases i with
  | cls => cases h; exact .cls
  | ret =>
    simp only [exec, execRet] at h
    split at h
    · cases h; exact .ret ‹_›
    · exact absurd h (raise_ne_next _ _ _)
  | jp nnn => cases h; exact .jump _ (Nat.le_trans (addrOperand_le nnn) (by decide))
  | jpV0 nnn => cases h; exact .jump _ (indexedTarget_le nnn _)
  | call nnn =>
    simp only [exec, execCall] at h
    split at h
    · cases h; exact .call nnn ‹_›
    · exact absurd h (raise_ne_next _ _ _)
  | seVxNn | sneVxNn | seVxVy | sneVxVy | skp | sknp => cases h; exact .skip _
  | ldVxNn | addVxNn | ldVxVy | orVxVy | andVxVy | xorVxVy | rndVxNn | ldVxDt => cases h; exact .result _ rfl
  | addVxVy | subVxVy | shrVx | subnVxVy | shlVx => cases h; exact .flagResult _ _ (.inl rfl) (.inr rfl)
  | ldVxK x =>
    simp only [exec, execLdVxK] at h
    split at h
    · cases h; exact .result _ rfl
    · cases h; exact .wait x
  | drw x y n =>
    obtain ⟨hr, rfl⟩ := (checkRange_eq_next _ _ _ _ _).mp h
    exact .drw x y n hr
  | ldI nnn => cases h; exact .ldI nnn
  | ldFVx x => cases h; exact .ldFVx x
  | addIVx x => cases h; exact .addIVx x
  | ldBVx x =>
    obtain ⟨hr, rfl⟩ := checkRange_next (by decide) h
    exact .ldBVx x hr
  | ldMemVx x =>
    obtain ⟨hr, rfl⟩ := checkRange_next (Nat.succ_ne_zero _) h
    exact .ldMemVx x hr
  | ldVxMem x =>
    obtain ⟨hr, rfl⟩ := checkRange_next (Nat.succ_ne_zero _) h
    exact .ldVxMem x hr
  | ldDtVx x => cases h; exact .ldDtVx x
  | ldStVx x => cases h; exact .ldStVx x

theorem checkRange_fault_after {base n : Nat} {s t : State} {f : Fault}
    (h : checkRange base n s t = .fault f) : f.after = s := by
  obtain ⟨-, rfl⟩ := (checkRange_eq_fault base n s t f).mp h
  rfl

/-- An instruction that raises its error carries the unchanged state (R65, R127). -/
theorem exec_fault_after {i : Instr} {s : State} {f : Fault} (h : exec i s = .fault f) : f.after = s := by
  cases i with
  | ret =>
    simp only [exec, execRet] at h
    split at h
    · cases h
    · cases h; rfl
  | call nnn =>
    simp only [exec, execCall] at h
    split at h
    · cases h
    · cases h; rfl
  | ldVxK x =>
    simp only [exec, execLdVxK] at h
    split at h <;> cases h
  | drw | ldBVx | ldMemVx | ldVxMem => exact checkRange_fault_after h
  | _ => cases h

/-- So do the errors of fetch and decode. -/
theorem fetchDecode_error_after {s : State} {f : Fault} (h : fetchDecode s = .error f) : f.after = s := by
  rcases (fetchDecode_eq_error s f).mp h with ⟨-, rfl⟩ | ⟨-, -, rfl⟩ <;> rfl

/-- A step that reports an error leaves the old state with the end of the step run over it (R65, R66). -/
theorem step_fault_after {s : State} {f : Fault} (h : step s = .fault f) : f.after = endStep s := by
  obtain ⟨g, rfl, hg⟩ := (step_eq_fault s f).mp h
  have : g.after = s := by
    rcases hg with hg | ⟨i, -, hg⟩
    · exact fetchDecode_error_after hg
    · exact exec_fault_after hg
  rw [mapAfter_after, this]

end Sys2Proof.Machine
end

section
/-!
PROOFS. The whole-machine frames: which instructions write memory, the registers, the special registers, the stack
and the display. Each goes through the shapes of `ExecEffect`; the shapes outside the exceptions change nothing there.
-/

namespace Sys2Proof.Machine

/-- Settles O47: the two stores are the only shapes that set memory. -/
theorem onlyStoresWriteMemory : Obligations.OnlyStoresWriteMemory := by
  intro i s t h hB hM
  cases exec_effect h with
  | ldBVx x => exact absurd rfl (hB x)
  | ldMemVx x => exact absurd rfl (hM x)
  | _ => simp

/-- FX65 leaves the registers above VX (R100). -/
theorem readReg_loadedRegs_above (s : State) (x r : Reg) (h : ¬ r ≤ x) : (loadedRegs s x)[r] = readReg s r := by
  simp [loadedRegs, h]

/-- Settles O48: a register that is no destination differs from the one each shape writes. -/
theorem onlyNamedRegistersChange : Obligations.OnlyNamedRegistersChange := by
  intro i s t r h hr
  cases exec_effect h with
  | @result _ x v hx =>
    have hne : r ≠ x := fun e => hr (e ▸ hx)
    rw [readReg_advance, readReg_writeReg_ne _ _ _ _ hne]
  | @flagResult _ x b v hx hf =>
    have hne : r ≠ x := fun e => hr (e ▸ hx)
    have hvf : r ≠ 15 := fun e => hr (e ▸ hf)
    rw [readReg_advance, readReg_writeReg_ne _ _ _ _ hne, readReg_writeVF, if_neg hvf]
  | drw x y n =>
    have hvf : r ≠ 15 := hr
    rw [readReg_advance, readReg_writeVF, if_neg hvf, readReg_redraw]
  | addIVx x =>
    have hvf : r ≠ 15 := hr
    rw [readReg_advance, readReg_writeI, readReg_writeVF, if_neg hvf]
  | ldVxMem x =>
    rw [readReg_advance, readReg_writeI, readReg_writeRegs]
    exact readReg_loadedRegs_above s x r hr
  | _ => simp

/-- No shape writes `beepFlag` (R21). -/
theorem exec_beepFlag {i : Instr} {s t : State} (h : exec i s = .next t) : t.beepFlag = s.beepFlag := by
  cases exec_effect h <;> simp

/-- No shape writes the keys (R19). -/
theorem exec_keys {i : Instr} {s t : State} (h : exec i s = .next t) : t.keys = s.keys := by
  cases exec_effect h <;> simp

/-- Settles O49: each special register is set by the shapes of its own instructions only. -/
theorem onlyTheirInstructionsWriteSpecialRegisters :
    Obligations.OnlyTheirInstructionsWriteSpecialRegisters := by
  intro i s t h
  refine ⟨fun hI hX => ?_, fun hD => ?_, fun hS => ?_, exec_beepFlag h⟩
  · cases exec_effect h with
    | ldI nnn => exact absurd rfl (hI nnn)
    | addIVx x => exact absurd rfl (hX x).1
    | ldFVx x => exact absurd rfl (hX x).2.1
    | ldMemVx x => exact absurd rfl (hX x).2.2.1
    | ldVxMem x => exact absurd rfl (hX x).2.2.2
    | _ => simp
  · cases exec_effect h with
    | ldDtVx x => exact absurd rfl (hD x)
    | _ => simp
  · cases exec_effect h with
    | ldStVx x => exact absurd rfl (hS x)
    | _ => simp

/-- Settles O50: 2NNN pushes, 00EE pops, and no other shape touches the stack. -/
theorem onlyCallAndReturnWriteTheStack : Obligations.OnlyCallAndReturnWriteTheStack := by
  intro i s t h hC hR
  cases exec_effect h with
  | call nnn => exact absurd rfl (hC nnn)
  | ret => exact absurd rfl hR
  | _ => simp

/-- Settles O51: 00E0 and DXYN are the shapes that redraw. -/
theorem onlyDisplayInstructionsDraw : Obligations.OnlyDisplayInstructionsDraw := by
  intro i s t h hC hD
  cases exec_effect h with
  | cls => exact absurd rfl hC
  | drw x y n => exact absurd rfl (hD x y n)
  | _ => simp

/-- `drawFlag` is never cleared by an instruction: the shapes that redraw set it, the others keep it (R20). -/
theorem exec_keeps_drawFlag {i : Instr} {s t : State} (h : exec i s = .next t) (hd : s.drawFlag = true) :
    t.drawFlag = true := by
  cases exec_effect h with
  | cls | drw => simp
  | _ => simpa using hd

/-- The timer phase can set `beepFlag` and never clears it (R66). -/
theorem endStep_keeps_beepFlag {s : State} (h : s.beepFlag = true) : (endStep s).beepFlag = true := by
  simp [h]

/-- Settles O52: the execute phase and the end of the step each keep the keys and both flags; an error leaves only
the end of the step. -/
theorem stepsLeaveKeysAndNeverClearFlags : Obligations.StepsLeaveKeysAndNeverClearFlags := by
  rintro s t (h | ⟨f, hf, rfl⟩)
  · obtain ⟨i, u, -, he, rfl⟩ := (step_eq_next s t).mp h
    exact ⟨(endStep_keys u).trans (exec_keys he),
      fun hd => (endStep_drawFlag u).trans (exec_keeps_drawFlag he hd),
      fun hb => endStep_keeps_beepFlag ((exec_beepFlag he).trans hb)⟩
  · rw [step_fault_after hf]
    exact ⟨rfl, id, endStep_keeps_beepFlag⟩

end Sys2Proof.Machine
end

section
/-!
PROOFS. The invariant of every reachable state (spec/10_state.md R26): its three parts over the execute phase, then
the step, the host's operations, and every sequence of them.
-/

namespace Sys2Proof.Machine

/-- The third part of `StateInv`: every live stack entry is an address an instruction can be fetched from. -/
def LiveEntriesLe (s : State) : Prop := ∀ k : Fin 16, k.val < s.sp.val → (s.stack[k]).toNat ≤ 0xFFE

theorem storedRegs_length (s : State) (x : Reg) : (storedRegs s x).length = transferCount x := by
  have := x.isLt
  simp only [storedRegs, transferCount, List.length_take, Vector.length_toList]
  omega

/-- A store that passed its range check keeps memory canonical; no other instruction sets memory. -/
theorem exec_keeps_mem_wf {i : Instr} {s t : State} (h : exec i s = .next t) (hm : Memory.wf s.mem) :
    Memory.wf t.mem := by
  cases exec_effect h with
  | ldBVx x hr => exact storeBytes_wf _ _ _ hm hr
  | ldMemVx x hr => exact storeBytes_wf _ _ _ hm (by rwa [storedRegs_length])
  | _ => simpa using hm

/-- Adding 2 or 4 to an address an instruction was fetched from does not wrap (R64). -/
theorem pc_add_le {pc : Word} (h : pc.toNat ≤ 0xFFE) : (pc + 2).toNat ≤ 0x10FE ∧ (pc + 4).toNat ≤ 0x10FE := by
  constructor <;> bv_omega

theorem skipIf_pc_le (c : Bool) {s : State} (h : s.pc.toNat ≤ 0xFFE) : (skipIf c s).pc.toNat ≤ 0x10FE := by
  cases c
  · exact (pc_add_le h).1
  · exact (pc_add_le h).2

/-- The newest entry of a stack whose live entries are addresses of calls is one of them. -/
theorem stackTop_le {s : State} (h : 0 < s.sp.val)
    (hs : LiveEntriesLe s) : (stackTop s h).toNat ≤ 0xFFE := by
  have := s.sp.isLt
  exact hs ⟨s.sp.val - 1, by omega⟩ (Nat.sub_lt h Nat.one_pos)

/-- An instruction fetched inside memory leaves `pc` at most 0x10FE: it adds 2 or 4, jumps, or returns behind a
call. -/
theorem exec_keeps_pc_le {i : Instr} {s t : State} (h : exec i s = .next t) (hf : s.pc.toNat ≤ 0xFFE)
    (hs : LiveEntriesLe s) : t.pc.toNat ≤ 0x10FE := by
  cases exec_effect h with
  | skip c => exact skipIf_pc_le c hf
  | jump target hle => exact hle
  | call nnn => exact Nat.le_trans (addrOperand_le nnn) (by decide)
  | ret hsp => exact (pc_add_le (stackTop_le hsp hs)).1
  | wait => exact Nat.le_trans hf (by decide)
  | _ => simpa using (pc_add_le hf).1

/-- A push of an address at most 0xFFE keeps the bound of the live entries (R72). -/
theorem push_keeps_entries {s : State} {v : Word} (h : s.sp.val < 16) (hv : v.toNat ≤ 0xFFE)
    (hs : LiveEntriesLe s) : LiveEntriesLe (push s v h) := by
  intro k hk
  simp only [push_sp, push_stack, Fin.getElem_fin, Vector.getElem_set] at hk ⊢
  split
  · exact hv
  · exact hs k (by omega)

/-- The live entries stay at most 0xFFE: 2NNN pushes the address it was fetched from, 00EE only drops an entry. -/
theorem exec_keeps_entries {i : Instr} {s t : State} (h : exec i s = .next t) (hf : s.pc.toNat ≤ 0xFFE)
    (hs : LiveEntriesLe s) : LiveEntriesLe t := by
  cases exec_effect h with
  | call nnn hsp => exact push_keeps_entries hsp hf hs
  | ret => exact fun k hk => hs k (Nat.lt_of_lt_of_le hk (Nat.sub_le _ _))
  | _ => simpa [LiveEntriesLe] using hs

/-- The end of a step touches none of what the invariant speaks of. -/
theorem stateInv_endStep (s : State) : StateInv (endStep s) ↔ StateInv s := Iff.rfl

theorem stateInv_supplyRnd (rnd : Byte) (s : State) : StateInv (supplyRnd rnd s) ↔ StateInv s := Iff.rfl

/-- Settles O58: a completed step fetched at most at 0xFFE, so each part of the invariant survives the execute phase;
an erroring step leaves the old state but for its timers. -/
theorem stepKeepsTheInvariant : Obligations.StepKeepsTheInvariant := by
  intro s hs
  refine ⟨fun t h => ?_, fun f h => ?_⟩
  · obtain ⟨i, u, hi, he, rfl⟩ := (step_eq_next s t).mp h
    obtain ⟨hpc, -⟩ := (fetchDecode_eq_ok s i).mp hi
    obtain ⟨hm, -, hst⟩ := hs
    exact (stateInv_endStep u).mpr
      ⟨exec_keeps_mem_wf he hm, exec_keeps_pc_le he hpc hst, exec_keeps_entries he hpc hst⟩
  · rw [step_fault_after h]
    exact (stateInv_endStep s).mpr hs

/-- The invariant needs nothing of the state `reset` finds: memory lists nothing, `pc` is 0x200, and no entry is
live. -/
theorem stateInv_resetCore (s : State) : StateInv (resetCore s) :=
  ⟨wf_nil, show State.reset.pc.toNat ≤ 0x10FE by decide, fun k hk => absurd hk (Nat.not_lt_zero k.val)⟩

/-- Settles O57: the state after reset is the one `reset` leaves. -/
theorem invariantHoldsAtReset : Obligations.InvariantHoldsAtReset := stateInv_resetCore State.reset

theorem romFits_iff (rom : List Byte) : romFits rom = true ↔ rom.length ≤ 3584 := decide_eq_true_iff

/-- A ROM that fits ends inside memory, so storing it keeps memory canonical (R142). -/
theorem stateInv_loadRom (rom : List Byte) (s : State) : StateInv (loadRom rom s).1 := by
  obtain ⟨hm, hpc, hst⟩ := stateInv_resetCore s
  unfold loadRom
  split
  · rename_i hfit
    have hlen := (romFits_iff rom).mp hfit
    exact ⟨storeBytes_wf _ _ _ hm (Nat.add_le_add_left hlen 0x200), hpc, hst⟩
  · exact ⟨hm, hpc, hst⟩

/-- What the host gets back from a step has the invariant, whichever outcome it was. -/
theorem stateInv_stepResult {s : State} (hs : StateInv s) : StateInv (stepResult s).1 := by
  obtain ⟨hnext, hfault⟩ := stepKeepsTheInvariant s hs
  unfold stepResult
  split
  · exact hnext _ ‹_›
  · exact hfault _ ‹_›
  · exact hs

theorem applyHostOp_keeps_stateInv (op : HostOp) {s : State} (hs : StateInv s) :
    StateInv (applyHostOp op s).1 := by
  cases op with
  | reset => exact stateInv_resetCore s
  | load rom => exact stateInv_loadRom rom s
  | step rnd => exact stateInv_stepResult ((stateInv_supplyRnd rnd s).mpr hs)
  | writeKeys | writeKey | clearDrawFlag | clearBeepFlag => exact hs

/-- Settles O59, by induction on the host's operations: each of them keeps the invariant (log entry 13 for the
memory's form). -/
theorem hostOperationsKeepTheInvariant : Obligations.HostOperationsKeepTheInvariant := by
  intro ops
  induction ops with
  | nil => exact fun s hs => hs
  | cons op ops ih => exact fun s hs => ih _ (applyHostOp_keeps_stateInv op hs)

end Sys2Proof.Machine
end

section
/-!
PROOFS. What the host's operations leave (spec/10_state.md R24, R25): the reset table, and the frames of its writes.
-/

namespace Sys2Proof.Machine

/-- The reset table of R24, memory apart: every array is a constant one, every other member a literal. -/
theorem atResetValues_resetCore (s : State) : atResetValues (resetCore s) := by
  refine ⟨fun r => ?_, rfl, rfl, fun k => ?_, rfl, rfl, rfl, fun y x => ?_, fun k => ?_, rfl, rfl⟩
  all_goals simp [readReg, keyDown, cell, resetCore, State.reset]

/-- A memory that lists nothing reads as FONT and zeros (R24, R27). -/
theorem byteAtReset_nil (a : Nat) : byteAtReset [] a := by
  constructor
  · intro h
    simp [unlisted, h]
  · intro h
    simp [unlisted, h]

/-- A byte that reads alike is at its reset value alike. -/
theorem byteAtReset_congr {m m' : Memory} {a : Nat} (h : memRead m' a = memRead m a) (hm : byteAtReset m a) :
    byteAtReset m' a := by
  simpa only [byteAtReset, h] using hm

theorem loadRom_of_fits {rom : List Byte} (s : State) (h : rom.length ≤ 3584) :
    loadRom rom s = (writeMem (resetCore s) (storeBytes (resetCore s).mem Config.progBase rom), none) :=
  if_pos ((romFits_iff rom).mpr h)

/-- Settles O1: reset gives the table outright, and a load over it sets memory only, at the ROM's own addresses. -/
theorem resetAndLoadLeaveTheResetTable : Obligations.ResetAndLoadLeaveTheResetTable := by
  refine ⟨⟨atResetValues_resetCore State.reset, byteAtReset_nil⟩, fun s rom => ⟨?_, fun hlen => ?_⟩⟩
  · exact ⟨atResetValues_resetCore s, byteAtReset_nil⟩
  · have hload : (applyHostOp (.load rom) s).1 = writeMem (resetCore s) (storeBytes [] 0x200 rom) :=
      congrArg Prod.fst (loadRom_of_fits s hlen)
    rw [hload]
    refine ⟨atResetValues_resetCore s, fun a ha => ?_⟩
    exact byteAtReset_congr (memRead_storeBytes_outside [] 0x200 a rom ha) (byteAtReset_nil a)

/-- Replacing the key vector changes keys only (R137). -/
theorem writeKeys_frame (s : State) (keys : Vector Bool 16) :
    unchangedBut (fun p => ∃ j, p = .key j) s (applyHostOp (.writeKeys keys) s).1 := by
  intro p hp
  cases p with
  | key j => exact absurd ⟨j, rfl⟩ hp
  | rnd => exact ⟨rfl, rfl⟩
  | _ => exact rfl

theorem keyDown_writeKey_same (s : State) (k : Key) (down : Bool) :
    keyDown (applyHostOp (.writeKey k down) s).1 k = down := by
  simp [keyDown, applyHostOp]

theorem keyDown_writeKey_ne (s : State) {j k : Key} (down : Bool) (h : j ≠ k) :
    keyDown (applyHostOp (.writeKey k down) s).1 j = keyDown s j := by
  have : k.val ≠ j.val := fun e => h (Fin.ext e.symm)
  simp [keyDown, applyHostOp, this]

theorem writeKey_frame (s : State) (k : Key) (down : Bool) :
    unchangedBut (pieces [.key k]) s (applyHostOp (.writeKey k down) s).1 := by
  intro p hp
  cases p with
  | key j => exact keyDown_writeKey_ne s down fun e => hp (by simp [e])
  | rnd => exact ⟨rfl, rfl⟩
  | _ => exact rfl

theorem clearDrawFlag_frame (s : State) :
    unchangedBut (pieces [.drawFlag]) s (applyHostOp .clearDrawFlag s).1 := by
  intro p hp
  cases p with
  | drawFlag => exact absurd (List.mem_singleton_self _) hp
  | rnd => exact ⟨rfl, rfl⟩
  | _ => exact rfl

theorem clearBeepFlag_frame (s : State) :
    unchangedBut (pieces [.beepFlag]) s (applyHostOp .clearBeepFlag s).1 := by
  intro p hp
  cases p with
  | beepFlag => exact absurd (List.mem_singleton_self _) hp
  | rnd => exact ⟨rfl, rfl⟩
  | _ => exact rfl

/-- Settles O56: each write's effect is the member it sets, and its frame says the rest stays. -/
theorem hostWritesChangeOnlyWhatTheyName : Obligations.HostWritesChangeOnlyWhatTheyName :=
  fun s keys k down =>
    ⟨⟨rfl, fun _ => rfl, writeKeys_frame s keys⟩,
      ⟨rfl, keyDown_writeKey_same s k down, writeKey_frame s k down⟩,
      ⟨rfl, rfl, clearDrawFlag_frame s⟩,
      ⟨rfl, rfl, clearBeepFlag_frame s⟩⟩

end Sys2Proof.Machine
end

section
/-!
PROOFS. Canonical memories (log entry 13): what a memory reads as determines its list.
-/

namespace Sys2Proof.Machine

/-- A canonical memory's tail is canonical, and every address of the tail is above the head's. -/
theorem wf_cons_iff (c : Host.Cell) (m : Memory) :
    Memory.wf (c :: m) ↔
      (∀ d ∈ m, c.1 < d.1) ∧ (c.1 < Config.memSize ∧ c.2 ≠ unlisted c.1) ∧ Memory.wf m := by
  simp only [Memory.wf, List.pairwise_cons, List.forall_mem_cons]
  tauto

/-- An address no entry has reads as unlisted. -/
theorem memRead_of_not_listed (m : Memory) (a : Nat) (h : ∀ d ∈ m, d.1 ≠ a) : memRead m a = unlisted a := by
  induction m with
  | nil => rfl
  | cons c m ih =>
    rw [List.forall_mem_cons] at h
    rw [memRead_cons, if_neg h.1.symm, ih h.2]

theorem memRead_cons_same (c : Host.Cell) (m : Memory) : memRead (c :: m) c.1 = c.2 := if_pos rfl

/-- Where every entry of a memory lies above an address, it cannot read there like a canonical memory that lists
the address. -/
theorem memRead_ne_of_above {c : Host.Cell} {m m' : Memory} (hc : c.2 ≠ unlisted c.1)
    (h : ∀ d ∈ m', c.1 < d.1) : memRead (c :: m) c.1 ≠ memRead m' c.1 := by
  rw [memRead_cons_same, memRead_of_not_listed m' c.1 fun d hd => (h d hd).ne']
  exact hc

/-- If two canonical memories read alike, the first address of one is not below that of the other: the other would
list nothing there. -/
theorem head_le_head {c d : Host.Cell} {m m' : Memory} (hw : Memory.wf (c :: m)) (hw' : Memory.wf (d :: m'))
    (h : ∀ a, memRead (c :: m) a = memRead (d :: m') a) : d.1 ≤ c.1 := by
  obtain ⟨-, ⟨-, hc⟩, -⟩ := (wf_cons_iff c m).mp hw
  obtain ⟨hm', -, -⟩ := (wf_cons_iff d m').mp hw'
  by_contra hlt
  have hcd : c.1 < d.1 := Nat.lt_of_not_le hlt
  exact memRead_ne_of_above hc (List.forall_mem_cons.mpr ⟨hcd, fun e he => hcd.trans (hm' e he)⟩) (h c.1)

/-- Behind equal first entries the tails read alike: at the head's address both read as unlisted. -/
theorem tails_read_alike {c : Host.Cell} {m m' : Memory} (hm : ∀ d ∈ m, c.1 < d.1) (hm' : ∀ d ∈ m', c.1 < d.1)
    (h : ∀ a, memRead (c :: m) a = memRead (c :: m') a) (a : Nat) : memRead m a = memRead m' a := by
  by_cases ha : a = c.1
  · subst ha
    rw [memRead_of_not_listed m c.1 fun d hd => (hm d hd).ne',
      memRead_of_not_listed m' c.1 fun d hd => (hm' d hd).ne']
  · simpa [ha] using h a

/-- Settles O60, by induction on the first list: neither can list an entry the other lacks, so the first entries are
equal and the tails read alike. -/
theorem canonicalMemoriesReadingAlikeAreEqual : Obligations.CanonicalMemoriesReadingAlikeAreEqual := by
  intro m
  induction m with
  | nil =>
    intro m' _ hw' h
    cases m' with
    | nil => rfl
    | cons d m' =>
      obtain ⟨-, ⟨-, hd⟩, -⟩ := (wf_cons_iff d m').mp hw'
      exact absurd (h d.1).symm (memRead_ne_of_above hd nofun)
  | cons c m ih =>
    intro m' hw hw' h
    obtain ⟨hm, ⟨-, hc⟩, hwm⟩ := (wf_cons_iff c m).mp hw
    cases m' with
    | nil => exact absurd (h c.1) (memRead_ne_of_above hc nofun)
    | cons d m' =>
      obtain ⟨hm', -, hwm'⟩ := (wf_cons_iff d m').mp hw'
      have haddr : c.1 = d.1 := Nat.le_antisymm (head_le_head hw' hw fun a => (h a).symm) (head_le_head hw hw' h)
      have hval : c.2 = d.2 := by
        have := h c.1
        rwa [memRead_cons_same, haddr, memRead_cons_same] at this
      obtain rfl : c = d := Prod.ext haddr hval
      rw [ih m' hwm hwm' (tails_read_alike hm hm' h)]

end Sys2Proof.Machine
end

section
/-!
PROOFS. Memory as one space for data and code (spec/20_memory.md R43): what FX55 leaves in memory is what a later
fetch reads.
-/

namespace Sys2Proof.Machine

theorem storedRegs_getElem (s : State) (x r : Reg) (h : r.val < (storedRegs s x).length) :
    (storedRegs s x)[r.val] = readReg s r := by
  simp [storedRegs, readReg]

/-- A completed FX55 stored V0 to VX at `I`, all of them inside memory (R36, R99). -/
theorem ldMemVx_next {s t : State} {x : Reg} (h : exec (.ldMemVx x) s = .next t) :
    s.I.toNat + x.val + 1 ≤ 0x1000 ∧ t.mem = storeBytes s.mem s.I.toNat (storedRegs s x) := by
  obtain ⟨hrange, rfl⟩ := checkRange_next (Nat.succ_ne_zero _) h
  exact ⟨hrange, rfl⟩

/-- After a completed FX55 the byte at `I + r` is the register Vr, for every `r` up to X (R99). -/
theorem memRead_ldMemVx {s t : State} {x r : Reg} (h : exec (.ldMemVx x) s = .next t) (hr : r ≤ x) :
    memRead t.mem (s.I.toNat + r.val) = readReg s r := by
  have hlen : r.val < (storedRegs s x).length := by
    rw [storedRegs_length]
    exact Nat.lt_succ_of_le hr
  obtain ⟨-, hmem⟩ := ldMemVx_next h
  rw [hmem, memRead_storeBytes_inside s.mem s.I.toNat _ r.val hlen, storedRegs_getElem]

/-- The word at the address of a completed FX55 of at least two registers is V0, V1, high byte first (R32, R33). -/
theorem memRead2_ldMemVx {s t : State} {x : Reg} (h : exec (.ldMemVx x) s = .next t) (hx : 1 ≤ x.val) :
    memRead2 t.mem s.I.toNat = composeWord (readReg s 0) (readReg s 1) := by
  have h0 : memRead t.mem s.I.toNat = readReg s 0 := memRead_ldMemVx h (Fin.zero_le x)
  have h1 : memRead t.mem (s.I.toNat + 1) = readReg s 1 := memRead_ldMemVx h (r := 1) hx
  rw [memRead2, h0, h1, composeWord]

/-- Settles O38: both stored bytes lie in memory, so the fetch does not fault, and the word it reads is V0:V1. -/
theorem storedBytesAreFetched : Obligations.StoredBytesAreFetched := by
  intro s t u x i h hx hmem hpc hdec
  obtain ⟨hrange, -⟩ := ldMemVx_next h
  rw [fetchDecode_eq_ok, hmem, hpc, memRead2_ldMemVx h hx]
  exact ⟨by omega, hdec⟩

end Sys2Proof.Machine
end

section
/-!
SUPPORT. The opcode map as a partition (spec/30_encoding.md R50, R51): no word selects two rows, so a decoder that
takes the first row takes the only one. And what a mask of R50 keeps of a word, as a number.
-/

namespace Sys2Proof

@[simp] theorem Row.selects_iff (r : Row) (w : Word) : r.selects w ↔ w &&& r.mask = r.value := by
  simp [Row.selects]

/-- Two rows of the map differ in a bit that both their masks keep (R50). -/
theorem rows_differ : rows.Pairwise fun r q => r.value &&& q.mask ≠ q.value &&& r.mask := by
  decide

/-- No word selects two rows (R50). -/
theorem row_unique {w : Word} {r q : Row} (hr : r ∈ rows) (hq : q ∈ rows)
    (hrw : r.selects w) (hqw : q.selects w) : r = q := by
  by_contra hne
  have hsymm : Std.Symm fun r q : Row => r.value &&& q.mask ≠ q.value &&& r.mask := ⟨fun _ _ => Ne.symm⟩
  rw [Row.selects_iff] at hrw hqw
  exact rows_differ.forall hr hq hne
    (by rw [← hrw, ← hqw, BitVec.and_assoc, BitVec.and_assoc, BitVec.and_comm r.mask])

/-- The row the decoder takes is one of the map, and the word selects it. -/
theorem found_row_selects {w : Word} {r : Row} (h : rows.find? (fun r => r.selects w) = some r) :
    r ∈ rows ∧ r.selects w :=
  ⟨List.mem_of_find?_eq_some h, List.find?_some (p := fun r : Row => r.selects w) h⟩

/-- A word that selects a row decodes as that row says, wherever the row stands (R50). -/
theorem decodeWord_of_selects {w : Word} {r : Row} (hr : r ∈ rows) (hw : r.selects w) :
    decodeWord w = some (r.build w) := by
  have hfound : (rows.find? fun r => r.selects w).isSome := List.find?_isSome.mpr ⟨r, hr, hw⟩
  obtain ⟨q, hq⟩ := Option.isSome_iff_exists.mp hfound
  obtain ⟨hqmem, hqw⟩ := found_row_selects hq
  rw [decodeWord, hq, row_unique hqmem hr hqw hw, Option.map_some]

theorem decodeWord_eq_some (w : Word) (i : Instr) :
    decodeWord w = some i ↔ ∃ r ∈ rows, r.selects w ∧ r.build w = i := by
  constructor
  · intro h
    obtain ⟨r, hr, hbuild⟩ := Option.map_eq_some_iff.mp h
    obtain ⟨hmem, hw⟩ := found_row_selects hr
    exact ⟨r, hmem, hw, hbuild⟩
  · rintro ⟨r, hr, hw, rfl⟩
    exact decodeWord_of_selects hr hw

theorem decodeWord_eq_none (w : Word) : decodeWord w = none ↔ ¬ ∃ r ∈ rows, r.selects w := by
  simp [decodeWord]

/-! Every word is of every format, with the nibble OP of its own (R46, R47). -/

theorem formatXYN_fields (w : Word) :
    formatXYN (w.extractLsb' 12 4) (fieldX w) (fieldY w) (fieldN w) = w := by
  apply BitVec.eq_of_toNat_eq
  rw [formatXYN_toNat, fieldX_val, fieldY_val, fieldN_val, BitVec.extractLsb'_toNat, Nat.shiftRight_eq_div_pow]
  omega

theorem formatXK_fields (w : Word) : formatXK (w.extractLsb' 12 4) (fieldX w) (fieldNN w) = w := by
  apply BitVec.eq_of_toNat_eq
  rw [formatXK_toNat, fieldX_val, fieldNN_toNat, BitVec.extractLsb'_toNat, Nat.shiftRight_eq_div_pow]
  omega

/-! What each mask of R50 keeps. -/

theorem and_maskAll (w : Word) : w &&& 0xFFFF = w := BitVec.and_allOnes

theorem and_maskOp_toNat (w : Word) : (w &&& 0xF000).toNat = w.toNat / 4096 * 4096 := by
  rw [← formatXYN_fields w, formatXYN_maskOp, formatXYN_toNat, formatXYN_toNat, Fin.val_zero]
  omega

theorem and_maskOpNibble_toNat (w : Word) :
    (w &&& 0xF00F).toNat = w.toNat / 4096 * 4096 + w.toNat % 16 := by
  rw [← formatXYN_fields w, formatXYN_maskFunction, formatXYN_toNat, formatXYN_toNat, Fin.val_zero]
  omega

theorem and_maskOpByte_toNat (w : Word) :
    (w &&& 0xF0FF).toNat = w.toNat / 4096 * 4096 + w.toNat % 256 := by
  rw [← formatXK_fields w, formatXK_maskFunction, formatXK_toNat, formatXK_toNat, Fin.val_zero]
  omega

end Sys2Proof
end

section
/-!
PROOFS. Decode after encode (spec/30_encoding.md R45 to R50): the word of an instruction selects the instruction's own
row, and that row's fields read the operands back.
-/

namespace Sys2Proof

/-! The fields of a formatted word are the operands it was made of (R46, R47). -/

@[simp] theorem fieldNNN_formatA (op : BitVec 4) (nnn : Addr12) : fieldNNN (formatA op nnn) = nnn := by
  apply BitVec.eq_of_toNat_eq
  rw [fieldNNN_toNat, formatA_toNat]
  omega

@[simp] theorem fieldX_formatXK (op : BitVec 4) (x : Reg) (nn : Byte) : fieldX (formatXK op x nn) = x := by
  apply Fin.ext
  rw [fieldX_val, formatXK_toNat]
  omega

@[simp] theorem fieldNN_formatXK (op : BitVec 4) (x : Reg) (nn : Byte) : fieldNN (formatXK op x nn) = nn := by
  apply BitVec.eq_of_toNat_eq
  rw [fieldNN_toNat, formatXK_toNat]
  omega

@[simp] theorem fieldX_formatXYN (op : BitVec 4) (x y : Reg) (n : Fin 16) : fieldX (formatXYN op x y n) = x := by
  apply Fin.ext
  rw [fieldX_val, formatXYN_toNat]
  omega

@[simp] theorem fieldY_formatXYN (op : BitVec 4) (x y : Reg) (n : Fin 16) : fieldY (formatXYN op x y n) = y := by
  apply Fin.ext
  rw [fieldY_val, formatXYN_toNat]
  omega

@[simp] theorem fieldN_formatXYN (op : BitVec 4) (x y : Reg) (n : Fin 16) : fieldN (formatXYN op x y n) = n := by
  apply Fin.ext
  rw [fieldN_val, formatXYN_toNat]
  omega

/-- The word of every instruction selects the instruction's own row (R50). -/
theorem encode_selects_row : ∀ i : Instr, Laws.OpcodeRow.Statement i
  | .cls => Laws.OpcodeRow.cls
  | .ret => Laws.OpcodeRow.ret
  | .jp nnn => Laws.OpcodeRow.jp nnn
  | .call nnn => Laws.OpcodeRow.call nnn
  | .seVxNn x nn => Laws.OpcodeRow.seVxNn x nn
  | .sneVxNn x nn => Laws.OpcodeRow.sneVxNn x nn
  | .seVxVy x y => Laws.OpcodeRow.seVxVy x y
  | .ldVxNn x nn => Laws.OpcodeRow.ldVxNn x nn
  | .addVxNn x nn => Laws.OpcodeRow.addVxNn x nn
  | .ldVxVy x y => Laws.OpcodeRow.ldVxVy x y
  | .orVxVy x y => Laws.OpcodeRow.orVxVy x y
  | .andVxVy x y => Laws.OpcodeRow.andVxVy x y
  | .xorVxVy x y => Laws.OpcodeRow.xorVxVy x y
  | .addVxVy x y => Laws.OpcodeRow.addVxVy x y
  | .subVxVy x y => Laws.OpcodeRow.subVxVy x y
  | .shrVx x y => Laws.OpcodeRow.shrVx x y
  | .subnVxVy x y => Laws.OpcodeRow.subnVxVy x y
  | .shlVx x y => Laws.OpcodeRow.shlVx x y
  | .sneVxVy x y => Laws.OpcodeRow.sneVxVy x y
  | .ldI nnn => Laws.OpcodeRow.ldI nnn
  | .jpV0 nnn => Laws.OpcodeRow.jpV0 nnn
  | .rndVxNn x nn => Laws.OpcodeRow.rndVxNn x nn
  | .drw x y n => Laws.OpcodeRow.drw x y n
  | .skp x => Laws.OpcodeRow.skp x
  | .sknp x => Laws.OpcodeRow.sknp x
  | .ldVxDt x => Laws.OpcodeRow.ldVxDt x
  | .ldVxK x => Laws.OpcodeRow.ldVxK x
  | .ldDtVx x => Laws.OpcodeRow.ldDtVx x
  | .ldStVx x => Laws.OpcodeRow.ldStVx x
  | .addIVx x => Laws.OpcodeRow.addIVx x
  | .ldFVx x => Laws.OpcodeRow.ldFVx x
  | .ldBVx x => Laws.OpcodeRow.ldBVx x
  | .ldMemVx x => Laws.OpcodeRow.ldMemVx x
  | .ldVxMem x => Laws.OpcodeRow.ldVxMem x

/-- The instruction's own row builds the instruction from its word: the fields give back the operands. -/
theorem build_encode (i : Instr) : ∃ r, rows[rowIndex i]? = some r ∧ r.build (encode i) = i := by
  cases i <;> exact ⟨_, rfl, by simp only [encode, fieldNNN_formatA, fieldX_formatXK, fieldNN_formatXK,
    fieldX_formatXYN, fieldY_formatXYN, fieldN_formatXYN]⟩

theorem decodeWord_encode (i : Instr) : decodeWord (encode i) = some i := by
  obtain ⟨r, hr, hsel⟩ := encode_selects_row i
  obtain ⟨q, hq, hbuild⟩ := build_encode i
  obtain rfl : r = q := Option.some.inj (hr.symm.trans hq)
  rw [decodeWord_of_selects (List.mem_of_getElem? hr) ((Row.selects_iff _ _).mpr hsel), hbuild]

/-- The two bytes of a word, high byte first, make the word again (R32). -/
theorem composeWord_wordBytes (w : Word) : composeWord (w.extractLsb' 8 8) (w.extractLsb' 0 8) = w := by
  apply BitVec.eq_of_toNat_eq
  rw [composeWord, append_toNat, BitVec.extractLsb'_toNat, BitVec.extractLsb'_toNat, Nat.shiftRight_eq_div_pow]
  omega

/-- The bytes of a word that is an instruction decode to it and leave what follows them (R32, R45). -/
theorem decode_wordBytes_append {w : Word} {i : Instr} (h : decodeWord w = some i) (rest : List Byte) :
    decode (wordBytes w ++ rest) = .ok (i, rest) := by
  simp only [wordBytes, List.cons_append, List.nil_append, decode, composeWord_wordBytes, h]

/-- Settles O6: the word selects the instruction's own row, the only one it selects, and that row's fields read the
operands back. -/
theorem encodedInstructionsDecodeToThemselves : Obligations.EncodedInstructionsDecodeToThemselves :=
  fun i => ⟨decodeWord_encode i, decode_wordBytes_append (decodeWord_encode i)⟩

end Sys2Proof
end

section
/-!
PROOFS. Encode after decode (spec/30_encoding.md R49, R50, R54): the digits a row fixes and the fields it reads are
all the bits of the word.
-/

namespace Sys2Proof

/-- A row is faithful when every word that selects it is the word of what the row builds from it. -/
def Row.Faithful (r : Row) : Prop := ∀ w : Word, w &&& r.mask = r.value → encode (r.build w) = w

/-! The masks of R50: a row whose mask keeps some digits is faithful when its instruction's format has those digits of
the row's value and reads the others from the word. -/

theorem Row.faithful_all (v : Word) {b : Word → Instr} (hb : ∀ w, encode (b w) = v) :
    Row.Faithful ⟨0xFFFF, v, b⟩ :=
  fun w h => (hb w).trans (h.symm.trans (and_maskAll w))

theorem Row.faithful_op (op : BitVec 4) {b : Word → Instr} (hb : ∀ w, encode (b w) = formatA op (fieldNNN w)) :
    Row.Faithful ⟨0xF000, formatXYN op 0 0 0, b⟩ := by
  intro w h
  rw [← BitVec.toNat_inj, and_maskOp_toNat, formatXYN_toNat, Fin.val_zero] at h
  replace h : w.toNat / 4096 = op.toNat := by omega
  rw [← BitVec.toNat_inj, hb, formatA_toNat, fieldNNN_toNat]
  omega

theorem Row.faithful_opNibble (op : BitVec 4) (n : Fin 16) {b : Word → Instr}
    (hb : ∀ w, encode (b w) = formatXYN op (fieldX w) (fieldY w) n) :
    Row.Faithful ⟨0xF00F, formatXYN op 0 0 n, b⟩ := by
  intro w h
  rw [← BitVec.toNat_inj, and_maskOpNibble_toNat, formatXYN_toNat, Fin.val_zero] at h
  replace h : w.toNat / 4096 = op.toNat ∧ w.toNat % 16 = n.val := by omega
  rw [← BitVec.toNat_inj, hb, formatXYN_toNat, fieldX_val, fieldY_val]
  omega

theorem Row.faithful_opByte (op : BitVec 4) (nn : Byte) {b : Word → Instr}
    (hb : ∀ w, encode (b w) = formatXK op (fieldX w) nn) :
    Row.Faithful ⟨0xF0FF, formatXK op 0 nn, b⟩ := by
  intro w h
  rw [← BitVec.toNat_inj, and_maskOpByte_toNat, formatXK_toNat, Fin.val_zero] at h
  replace h : w.toNat / 4096 = op.toNat ∧ w.toNat % 256 = nn.toNat := by omega
  rw [← BitVec.toNat_inj, hb, formatXK_toNat, fieldX_val]
  omega

/-! X with NN, and X, Y with N, are the twelve bits NNN (R46). -/

theorem formatXK_eq_formatA (op : BitVec 4) (w : Word) :
    formatXK op (fieldX w) (fieldNN w) = formatA op (fieldNNN w) := by
  rw [← BitVec.toNat_inj, formatXK_toNat, formatA_toNat, fieldX_val, fieldNN_toNat, fieldNNN_toNat]
  omega

theorem formatXYN_eq_formatA (op : BitVec 4) (w : Word) :
    formatXYN op (fieldX w) (fieldY w) (fieldN w) = formatA op (fieldNNN w) := by
  rw [← BitVec.toNat_inj, formatXYN_toNat, formatA_toNat, fieldX_val, fieldY_val, fieldN_val, fieldNNN_toNat]
  omega

theorem rows1_faithful : ∀ r ∈ rows1, r.Faithful := by
  simp only [rows1, List.forall_mem_cons]
  exact ⟨Row.faithful_all 0x00E0 fun _ => rfl, Row.faithful_all 0x00EE fun _ => rfl,
    Row.faithful_op 0x1 fun _ => rfl, Row.faithful_op 0x2 fun _ => rfl,
    Row.faithful_op 0x3 (formatXK_eq_formatA _), Row.faithful_op 0x4 (formatXK_eq_formatA _),
    Row.faithful_opNibble 0x5 0x0 fun _ => rfl, Row.faithful_op 0x6 (formatXK_eq_formatA _),
    Row.faithful_op 0x7 (formatXK_eq_formatA _), List.forall_mem_nil _⟩

theorem rows10_faithful : ∀ r ∈ rows10, r.Faithful := by
  simp only [rows10, List.forall_mem_cons]
  exact ⟨Row.faithful_opNibble 0x8 0x0 fun _ => rfl, Row.faithful_opNibble 0x8 0x1 fun _ => rfl,
    Row.faithful_opNibble 0x8 0x2 fun _ => rfl, Row.faithful_opNibble 0x8 0x3 fun _ => rfl,
    Row.faithful_opNibble 0x8 0x4 fun _ => rfl, Row.faithful_opNibble 0x8 0x5 fun _ => rfl,
    Row.faithful_opNibble 0x8 0x6 fun _ => rfl, Row.faithful_opNibble 0x8 0x7 fun _ => rfl,
    Row.faithful_opNibble 0x8 0xE fun _ => rfl, List.forall_mem_nil _⟩

theorem rows19_faithful : ∀ r ∈ rows19, r.Faithful := by
  simp only [rows19, List.forall_mem_cons]
  exact ⟨Row.faithful_opNibble 0x9 0x0 fun _ => rfl, Row.faithful_op 0xA fun _ => rfl,
    Row.faithful_op 0xB fun _ => rfl, Row.faithful_op 0xC (formatXK_eq_formatA _),
    Row.faithful_op 0xD (formatXYN_eq_formatA _), Row.faithful_opByte 0xE 0x9E fun _ => rfl,
    Row.faithful_opByte 0xE 0xA1 fun _ => rfl, List.forall_mem_nil _⟩

theorem rows26_faithful : ∀ r ∈ rows26, r.Faithful := by
  simp only [rows26, List.forall_mem_cons]
  exact ⟨Row.faithful_opByte 0xF 0x07 fun _ => rfl, Row.faithful_opByte 0xF 0x0A fun _ => rfl,
    Row.faithful_opByte 0xF 0x15 fun _ => rfl, Row.faithful_opByte 0xF 0x18 fun _ => rfl,
    Row.faithful_opByte 0xF 0x1E fun _ => rfl, Row.faithful_opByte 0xF 0x29 fun _ => rfl,
    Row.faithful_opByte 0xF 0x33 fun _ => rfl, Row.faithful_opByte 0xF 0x55 fun _ => rfl,
    Row.faithful_opByte 0xF 0x65 fun _ => rfl, List.forall_mem_nil _⟩

theorem rows_faithful : ∀ r ∈ rows, r.Faithful := by
  simp only [rows, List.forall_mem_append]
  exact ⟨⟨⟨rows1_faithful, rows10_faithful⟩, rows19_faithful⟩, rows26_faithful⟩

/-- Settles O7: the word selects the row it decodes by, and every row is faithful. -/
theorem decodedWordsEncodeToThemselves : Obligations.DecodedWordsEncodeToThemselves := by
  intro w i h
  obtain ⟨r, hr, hsel, rfl⟩ := (decodeWord_eq_some w i).mp h
  exact rows_faithful r hr w ((Row.selects_iff r w).mp hsel)

end Sys2Proof
end

section
/-!
PROOFS. The unknown words (spec/30_encoding.md R51, R52): which words the rows of the map select, by the top digit.
-/

namespace Sys2Proof

/-! Selecting a row of a list, as equations between numbers. -/

theorem exists_selects_cons (r : Row) (rs : List Row) (w : Word) :
    (∃ q ∈ r :: rs, q.selects w) ↔ (w &&& r.mask).toNat = r.value.toNat ∨ ∃ q ∈ rs, q.selects w := by
  rw [List.exists_mem_cons_iff, Row.selects_iff, BitVec.toNat_inj]

theorem exists_selects_nil (w : Word) : (∃ q ∈ ([] : List Row), q.selects w) ↔ False := by
  simp only [List.not_mem_nil, false_and, exists_false]

/-! The words each part of the opcode map selects (R50). -/

theorem selected_rows1 (w : Word) :
    (∃ r ∈ rows1, r.selects w) ↔
      (w.toNat / 4096 = 0 ∧ (w = 0x00E0 ∨ w = 0x00EE)) ∨ w.toNat / 4096 ∈ [1, 2, 3, 4, 6, 7] ∨
      (w.toNat / 4096 = 5 ∧ w.toNat % 16 = 0) := by
  simp only [rows1, exists_selects_cons, exists_selects_nil, or_false, BitVec.reduceToNat, and_maskAll,
    and_maskOp_toNat, and_maskOpNibble_toNat, ← BitVec.toNat_inj]
  simp only [List.mem_cons, List.not_mem_nil, or_false]
  omega

theorem selected_rows10 (w : Word) :
    (∃ r ∈ rows10, r.selects w) ↔
      w.toNat / 4096 = 8 ∧ w.toNat % 16 ∈ [0, 1, 2, 3, 4, 5, 6, 7, 0xE] := by
  simp only [rows10, exists_selects_cons, exists_selects_nil, or_false, BitVec.reduceToNat,
    and_maskOpNibble_toNat]
  simp only [List.mem_cons, List.not_mem_nil, or_false]
  omega

theorem selected_rows19 (w : Word) :
    (∃ r ∈ rows19, r.selects w) ↔
      (w.toNat / 4096 = 9 ∧ w.toNat % 16 = 0) ∨ w.toNat / 4096 ∈ [0xA, 0xB, 0xC, 0xD] ∨
      (w.toNat / 4096 = 0xE ∧ w.toNat % 256 ∈ [0x9E, 0xA1]) := by
  simp only [rows19, exists_selects_cons, exists_selects_nil, or_false, BitVec.reduceToNat,
    and_maskOp_toNat, and_maskOpNibble_toNat, and_maskOpByte_toNat]
  simp only [List.mem_cons, List.not_mem_nil, or_false]
  omega

theorem selected_rows26 (w : Word) :
    (∃ r ∈ rows26, r.selects w) ↔
      w.toNat / 4096 = 0xF ∧ w.toNat % 256 ∈ [0x07, 0x0A, 0x15, 0x18, 0x1E, 0x29, 0x33, 0x55, 0x65] := by
  simp only [rows26, exists_selects_cons, exists_selects_nil, or_false, BitVec.reduceToNat,
    and_maskOpByte_toNat]
  simp only [List.mem_cons, List.not_mem_nil, or_false]
  omega

theorem exists_mem_rows (p : Row → Prop) :
    (∃ r ∈ rows, p r) ↔
      (((∃ r ∈ rows1, p r) ∨ ∃ r ∈ rows10, p r) ∨ ∃ r ∈ rows19, p r) ∨ ∃ r ∈ rows26, p r := by
  simp only [rows, List.mem_append, or_and_right, exists_or]

/-- Settles O8: a word is unknown when it selects no row, and for each top digit the selected words and the table's
are complements. For OP 8 that is checked nibble by nibble, as both sides list nibbles. -/
theorem unknownWordsAreThoseOfTheTable : Obligations.UnknownWordsAreThoseOfTheTable := by
  intro w
  rw [decodeWord_eq_none, exists_mem_rows, selected_rows1, selected_rows10, selected_rows19, selected_rows26]
  have hop : w.toNat / 4096 < 16 := by omega
  have hnibble : w.toNat % 16 < 16 := by omega
  generalize w.toNat / 4096 = op at *
  generalize w.toNat % 16 = n at *
  obtain rfl | hne := eq_or_ne op 8
  · interval_cases n <;> simp
  · interval_cases op <;> simp at hne ⊢

end Sys2Proof
end

section
/-!
PROOFS. Words of spec/95_test_vectors.md V1, decoded (spec/30_encoding.md R50, R52).
-/

namespace Sys2Proof

/-- Settles O5: each word is closed, so the decoder computes its answer. -/
theorem sampleWordsDecode : Obligations.SampleWordsDecode := by
  unfold Obligations.SampleWordsDecode
  decide

end Sys2Proof
end

section
/-!
PROOFS. The cycle of a step (spec/40_step_cycle.md R60 to R66): the timer phase behind every outcome, the errors of
fetch and decode, and the instruction in between.
-/

namespace Sys2Proof.Machine

/-- The end of a step ticks the timers and hands the random input on; it writes no other piece (R66). -/
theorem ticked_endStep (s : State) : ticked s (endStep s) := by
  refine ⟨tick_toNat s.dt, tick_toNat s.st, by simp, fun p hp => ?_⟩
  cases p with
  | dt | st | beepFlag | rnd => simp at hp
  | _ => exact rfl

/-- Settles O10: a step is its phases 1 to 3 with the end of the step run over the state of either outcome. -/
theorem timerPhaseEndsEveryStep : Obligations.TimerPhaseEndsEveryStep := by
  refine fun s => ⟨fun u hu => ⟨endStep u, ?_, ticked_endStep u⟩, fun g hg => ⟨g.mapAfter endStep, ?_, ?_⟩⟩
  · exact (finish_eq_next _ _).mpr ⟨u, hu, rfl⟩
  · exact (finish_eq_fault _ _).mpr ⟨g, hg, rfl⟩
  · rw [mapAfter_error, mapAfter_after]
    exact ⟨rfl, ticked_endStep g.after⟩

/-- Settles O13: an error of any phase carries the old state, over which the end of the step runs. -/
theorem erroringStepOnlyTicksTimers : Obligations.ErroringStepOnlyTicksTimers := by
  intro s f h
  rw [step_fault_after h]
  exact ticked_endStep s

/-- An error of fetch or decode is the step's error. -/
theorem step_of_fetchDecode_error {s : State} {g : Fault} (h : fetchDecode s = .error g) :
    step s = .fault (g.mapAfter endStep) :=
  (step_eq_fault s _).mpr ⟨g, rfl, .inl h⟩

/-- Settles O15: the range check of the fetch fails from 0xFFF on; below that only decode can fail. -/
theorem fetchBeyondMemoryFaults : Obligations.FetchBeyondMemoryFaults := by
  refine fun s => ⟨fun hpc => ?_, fun hpc f hf => ?_⟩
  · have hfetch : fetchDecode s = .error (.memoryOutOfRange (lowestBad s.pc.toNat) s) :=
      (fetchDecode_eq_error s _).mpr (.inl ⟨hpc, rfl⟩)
    exact ⟨_, step_of_fetchDecode_error hfetch, rfl⟩
  · rcases (fetchDecode_eq_error s f).mp hf with ⟨hbad, -⟩ | ⟨-, -, rfl⟩
    · omega
    · rfl

/-- Settles O16: the fetch succeeds, decode raises the error over the old state, and the end of the step runs. -/
theorem unknownWordFaults : Obligations.UnknownWordFaults := by
  rintro s w hpc rfl hw
  have hdecode : fetchDecode s = .error (.unknownOpcode (memRead2 s.mem s.pc.toNat) s) :=
    (fetchDecode_eq_error s _).mpr (.inr ⟨Nat.le_of_lt_succ hpc, hw, rfl⟩)
  exact ⟨_, step_of_fetchDecode_error hdecode, rfl, ticked_endStep s⟩

/-- Settles O9: the fetch reads the two bytes as one word, and the end of the step runs over either outcome. -/
theorem stepRunsTheDecodedInstruction : Obligations.StepRunsTheDecodedInstruction := by
  intro s i hpc hw
  have hfetch : fetchDecode s = .ok i := (fetchDecode_eq_ok s i).mpr ⟨Nat.le_of_succ_le_succ hpc, hw⟩
  refine ⟨fun u hu => (step_eq_next s _).mpr ⟨i, u, hfetch, hu, rfl⟩, fun g hg => ⟨g.mapAfter endStep, ?_, ?_⟩⟩
  · exact (step_eq_fault s _).mpr ⟨g, rfl, .inr ⟨i, hfetch, hg⟩⟩
  · exact ⟨mapAfter_error g endStep, mapAfter_after g endStep⟩

end Sys2Proof.Machine
end

section
/-!
PROOFS. The model's `withFetchWord` (log entry 8): the word it places is the word the next step fetches.
-/

namespace Sys2Proof.Machine

theorem decodeTableWord_eq_decodeWord (w : Nat) : decodeTableWord 16 w = decodeWord (BitVec.ofNat 16 w) := by
  have hw : BitVec.ofNat 16 (w % 2 ^ 16) = BitVec.ofNat 16 w := BitVec.eq_of_toNat_eq (by simp)
  rw [decodeTableWord, hw]
  simp only [wordBytes, decode, composeWord_wordBytes]
  cases decodeWord (BitVec.ofNat 16 w) <;> rfl

/-- Where a fetch is possible, placing a word stores its two bytes at `pc`. -/
theorem withFetchWord_eq {s : State} (w : Nat) (hpc : s.pc.toNat < 0xFFF) :
    s.withFetchWord 16 w = writeMem s (storeBytes s.mem s.pc.toNat (wordBytes (BitVec.ofNat 16 w))) := by
  have hw : BitVec.ofNat 16 (w % 2 ^ 16) = BitVec.ofNat 16 w := BitVec.eq_of_toNat_eq (by simp)
  rw [State.withFetchWord, if_pos ((memRangeOk_iff _ _).mpr (by omega)), hw]

/-- A word stored high byte first is read back as the word (R32). -/
theorem memRead2_storeBytes_wordBytes (m : Memory) (a : Nat) (w : Word) :
    memRead2 (storeBytes m a (wordBytes w)) a = w := by
  have hhi : memRead (storeBytes m a (wordBytes w)) a = w.extractLsb' 8 8 :=
    memRead_storeBytes_inside m a (wordBytes w) 0 Nat.zero_lt_two
  have hlo : memRead (storeBytes m a (wordBytes w)) (a + 1) = w.extractLsb' 0 8 :=
    memRead_storeBytes_inside m a (wordBytes w) 1 Nat.one_lt_two
  rw [memRead2, hhi, hlo]
  exact composeWord_wordBytes w

theorem withFetchWord_frame (s : State) (w : Nat) (hpc : s.pc.toNat < 0xFFF) :
    unchangedBut (pieces [.mem s.pc.toNat, .mem (s.pc.toNat + 1)]) s (s.withFetchWord 16 w) := by
  rw [withFetchWord_eq w hpc]
  intro p hp
  cases p with
  | mem a =>
    have houtside : a < s.pc.toNat ∨ s.pc.toNat + 2 ≤ a := by
      simp only [pieces_iff, List.mem_cons, Piece.mem.injEq, List.not_mem_nil, or_false] at hp
      omega
    exact memRead_storeBytes_outside s.mem s.pc.toNat a _ houtside
  | rnd => exact ⟨rfl, rfl⟩
  | _ => exact rfl

/-- Settles O17: the fetch at the unchanged `pc` reads the placed word, and the table decodes a word as the step
does. -/
theorem placedWordIsFetched : Obligations.PlacedWordIsFetched := by
  intro s w hpc
  have hpc' : (s.withFetchWord 16 w).pc = s.pc := by rw [withFetchWord_eq w hpc, writeMem_pc]
  have hword : memRead2 (s.withFetchWord 16 w).mem s.pc.toNat = BitVec.ofNat 16 w := by
    rw [withFetchWord_eq w hpc, writeMem_mem, memRead2_storeBytes_wordBytes]
  have hle : s.pc.toNat ≤ 0xFFE := Nat.le_of_lt_succ hpc
  rw [decodeTableWord_eq_decodeWord]
  refine ⟨fun i hi => ?_, fun hnone => ?_, withFetchWord_frame s w hpc⟩
  · rw [fetchDecode_eq_ok, hpc', hword]
    exact ⟨hle, hi⟩
  · refine ⟨.unknownOpcode (BitVec.ofNat 16 w) (s.withFetchWord 16 w), ?_, rfl⟩
    rw [fetchDecode_eq_error, hpc', hword]
    exact .inr ⟨hle, hnone, rfl⟩

end Sys2Proof.Machine
end

section
/-!
SUPPORT. Hiding what the host writes between steps (spec/40_step_cycle.md R68): a mask overwrites the keys, the two
flags or the random input by constants. An instruction that does not read what a mask hides gives, over the masked
state, its masked outcome; so two states a mask makes equal have outcomes it makes equal.
-/

namespace Sys2Proof.Machine

/-- Which of the host's parts of the state are hidden: the keys, both flags, the random input. -/
structure HostMask where
  keys : Bool
  flags : Bool
  rnd : Bool

/-- The state with the masked parts at constants: no key down, both flags set, no random byte. A flag is hidden as
set, because that is what a step can do to it. -/
def HostMask.hide (m : HostMask) (s : State) : State :=
  { s with
    keys := if m.keys then Vector.replicate 16 false else s.keys
    drawFlag := s.drawFlag || m.flags
    beepFlag := s.beepFlag || m.flags
    rndQueue := if m.rnd then [] else s.rndQueue
    rndIndex := if m.rnd then 0 else s.rndIndex }

/-- The pieces a mask hides. -/
def HostMask.hides (m : HostMask) : Piece → Prop
  | .key _ => m.keys
  | .drawFlag => m.flags
  | .beepFlag => m.flags
  | .rnd => m.rnd
  | _ => False

/-- An instruction reads nothing the mask hides: the keys have three readers, the random input one, the flags none
(R19, R22, R68). -/
def HostMask.UnreadBy (m : HostMask) (i : Instr) : Prop :=
  (m.keys = true → ∀ x, i ≠ .skp x ∧ i ≠ .sknp x ∧ i ≠ .ldVxK x) ∧
  (m.rnd = true → ∀ x nn, i ≠ .rndVxNn x nn)

/-- An outcome with a function run over its state, the fault's included. -/
def mapOutcome (f : State → State) : Host.Outcome State Fault Refusal → Host.Outcome State Fault Refusal
  | .next s => .next (f s)
  | .fault g => .fault (g.mapAfter f)
  | .refused r => .refused r

variable (m : HostMask) (s : State)

theorem keyDown_hide (h : m.keys = false) (k : Key) : keyDown (m.hide s) k = keyDown s k := by
  simp [keyDown, HostMask.hide, h]

theorem rndByte_hide (h : m.rnd = false) : rndByte (m.hide s) = rndByte s := by
  simp [rndByte, HostMask.hide, h]

/-! Hiding commutes with the shared operations: each either leaves the masked parts or, like `redraw`, sets a flag. -/

theorem hide_advance : m.hide (advance s) = advance (m.hide s) := rfl
theorem hide_writeVF (b : Bool) : m.hide (writeVF s b) = writeVF (m.hide s) b := rfl
theorem hide_writeI (v : Word) : m.hide (writeI s v) = writeI (m.hide s) v := rfl
theorem hide_writeRegs (regs : Vector Byte 16) : m.hide (writeRegs s regs) = writeRegs (m.hide s) regs := rfl
theorem hide_redraw (fb : Framebuffer) : m.hide (redraw s fb) = redraw (m.hide s) fb := rfl

/-! Nor do the values of DXYN and FX65 depend on a masked part. -/

theorem drawSprite_hide (x y : Reg) (n : RowCount) : drawSprite (m.hide s) x y n = drawSprite s x y n := rfl
theorem loadedRegs_hide (x : Reg) : loadedRegs (m.hide s) x = loadedRegs s x := rfl
theorem indexAfter_hide (x : Reg) : indexAfter (m.hide s) x = indexAfter s x := rfl

theorem checkRange_hide {base n : Nat} {t t' : State} (h : t' = m.hide t) :
    checkRange base n (m.hide s) t' = mapOutcome m.hide (checkRange base n s t) := by
  subst h
  unfold checkRange
  split <;> rfl

/-! 00EE and 2NNN on either side of the stack's ends (R70, R72). -/

theorem exec_ret_of_pos {s : State} (h : 0 < s.sp.val) :
    exec .ret s = .next (jumpTo (pop s) (stackTop s h + 2)) := dif_pos h

theorem exec_ret_of_zero {s : State} (h : s.sp.val = 0) : exec .ret s = raise .stackUnderflow s :=
  dif_neg (Nat.not_lt.mpr (Nat.le_of_eq h))

theorem exec_call_of_lt {s : State} (nnn : Addr12) (h : s.sp.val < 16) :
    exec (.call nnn) s = .next (jumpTo (push s s.pc h) (addrOperand nnn)) := dif_pos h

theorem exec_call_of_ge {s : State} (nnn : Addr12) (h : 16 ≤ s.sp.val) :
    exec (.call nnn) s = raise .stackOverflow s := dif_neg (Nat.not_lt.mpr h)

/-- An instruction commutes with hiding what it does not read. -/
theorem exec_hide {i : Instr} (h : m.UnreadBy i) : exec i (m.hide s) = mapOutcome m.hide (exec i s) := by
  obtain ⟨hkeys, hrnd⟩ := h
  cases i with
  | skp x =>
    have hk : m.keys = false := Bool.eq_false_iff.mpr fun e => (hkeys e x).1 rfl
    simp only [exec, execSkp, keyDown_hide m s hk]
    rfl
  | sknp x =>
    have hk : m.keys = false := Bool.eq_false_iff.mpr fun e => (hkeys e x).2.1 rfl
    simp only [exec, execSknp, keyDown_hide m s hk]
    rfl
  | ldVxK x =>
    have hk : m.keys = false := Bool.eq_false_iff.mpr fun e => (hkeys e x).2.2 rfl
    simp only [exec, execLdVxK, firstKey, keyDown_hide m s hk]
    split <;> rfl
  | rndVxNn x nn =>
    have hr : m.rnd = false := Bool.eq_false_iff.mpr fun e => hrnd e x nn rfl
    simp only [exec, execRndVxNn, rndByte_hide m s hr]
    rfl
  | ret =>
    obtain hsp | hsp := Nat.eq_zero_or_pos s.sp.val
    · rw [exec_ret_of_zero hsp, exec_ret_of_zero (s := m.hide s) hsp]
      rfl
    · rw [exec_ret_of_pos hsp, exec_ret_of_pos (s := m.hide s) hsp]
      rfl
  | call nnn =>
    obtain hsp | hsp := Nat.lt_or_ge s.sp.val 16
    · rw [exec_call_of_lt nnn hsp, exec_call_of_lt (s := m.hide s) nnn hsp]
      rfl
    · rw [exec_call_of_ge nnn hsp, exec_call_of_ge (s := m.hide s) nnn hsp]
      rfl
  | drw x y n =>
    exact checkRange_hide m s (by simp only [drawSprite_hide, hide_redraw, hide_writeVF, hide_advance])
  | ldVxMem x =>
    exact checkRange_hide m s
      (by simp only [loadedRegs_hide, indexAfter_hide, hide_writeRegs, hide_writeI, hide_advance])
  | ldBVx | ldMemVx => exact checkRange_hide m s rfl
  | _ => rfl

/-- Fetch and decode read `pc` and memory, which no mask hides (R61, R62). -/
theorem fetchDecode_hide_eq_ok (i : Instr) : fetchDecode (m.hide s) = .ok i ↔ fetchDecode s = .ok i := by
  rw [fetchDecode_eq_ok, fetchDecode_eq_ok]
  rfl

theorem fetchDecode_hide_error {f : Fault} (h : fetchDecode s = .error f) :
    fetchDecode (m.hide s) = .error (f.mapAfter m.hide) := by
  refine (fetchDecode_eq_error _ _).mpr ?_
  rcases (fetchDecode_eq_error s f).mp h with ⟨hpc, rfl⟩ | ⟨hpc, hw, rfl⟩
  · exact .inl ⟨hpc, rfl⟩
  · exact .inr ⟨hpc, hw, rfl⟩

theorem fetchDecodeExecute_of_error {s : State} {f : Fault} (h : fetchDecode s = .error f) :
    fetchDecodeExecute s = .fault f := by
  rw [fetchDecodeExecute, h]

theorem fetchDecodeExecute_of_ok {s : State} {i : Instr} (h : fetchDecode s = .ok i) :
    fetchDecodeExecute s = exec i s := by
  rw [fetchDecodeExecute, h]

/-- Phases 1 to 3 commute with hiding what their instruction, if there is one, does not read. -/
theorem fetchDecodeExecute_hide (h : ∀ i, fetchDecode s = .ok i → m.UnreadBy i) :
    fetchDecodeExecute (m.hide s) = mapOutcome m.hide (fetchDecodeExecute s) := by
  cases hf : fetchDecode s with
  | error f =>
    rw [fetchDecodeExecute_of_error hf, fetchDecodeExecute_of_error (fetchDecode_hide_error m s hf)]
    rfl
  | ok i =>
    rw [fetchDecodeExecute_of_ok hf, fetchDecodeExecute_of_ok ((fetchDecode_hide_eq_ok m s i).mpr hf)]
    exact exec_hide m s (h i hf)

/-- What a mask hides has no part in what the end of the step leaves outside the mask: of each of the three parts,
either both sides are the mask's constant, or the first hiding did not touch it. -/
theorem hide_endStep_hide : m.hide (endStep (m.hide s)) = m.hide (endStep s) := by
  obtain ⟨_ | _, _ | _, _ | _⟩ := m <;> simp [HostMask.hide, endStep, timerPhase, consumeRnd]

theorem mapOutcome_hide_finish (o : Host.Outcome State Fault Refusal) :
    mapOutcome m.hide (finish (mapOutcome m.hide o)) = mapOutcome m.hide (finish o) := by
  cases o with
  | next t => exact congrArg Host.Outcome.next (hide_endStep_hide m t)
  | fault f => cases f <;> simp only [mapOutcome, finish, Fault.mapAfter, hide_endStep_hide]
  | refused r => rfl

/-- Hiding before a step as well as after it gives what hiding after it gives. -/
theorem step_hide (h : ∀ i, fetchDecode s = .ok i → m.UnreadBy i) :
    mapOutcome m.hide (step (m.hide s)) = mapOutcome m.hide (step s) := by
  rw [step, step, fetchDecodeExecute_hide m s h, mapOutcome_hide_finish]

variable {m s}

/-- Two states a mask makes equal have steps it makes equal, if the instruction reads nothing it hides. -/
theorem step_congr_of_hide_eq {s' : State} (hs : m.hide s' = m.hide s)
    (h : ∀ i, fetchDecode s = .ok i → m.UnreadBy i) :
    mapOutcome m.hide (step s') = mapOutcome m.hide (step s) := by
  have h' : ∀ i, fetchDecode s' = .ok i → m.UnreadBy i := fun i hi =>
    h i ((fetchDecode_hide_eq_ok m s i).mp (hs ▸ (fetchDecode_hide_eq_ok m s' i).mpr hi))
  rw [← step_hide m s h, ← step_hide m s' h', hs]

/-- A piece a mask does not hide is the same in two masked states when it is the same in the two states. -/
theorem samePiece_hide {p : Piece} (hp : ¬ m.hides p) (t t' : State) :
    samePiece (m.hide t) (m.hide t') p ↔ samePiece t t' p := by
  cases p with
  | key k =>
    have hk : m.keys = false := Bool.eq_false_iff.mpr hp
    rw [samePiece_key, samePiece_key, keyDown_hide m t hk, keyDown_hide m t' hk]
  | drawFlag | beepFlag =>
    have hf : m.flags = false := Bool.eq_false_iff.mpr hp
    simp [HostMask.hide, hf]
  | rnd =>
    have hr : m.rnd = false := Bool.eq_false_iff.mpr hp
    simp [HostMask.hide, hr]
  | _ => exact Iff.rfl

/-- States a mask makes equal differ in the pieces it hides only. -/
theorem unchangedBut_of_hide_eq {t t' : State} (h : m.hide t' = m.hide t) : unchangedBut m.hides t t' := by
  intro p hp
  rw [← samePiece_hide hp, h]
  exact samePiece_refl _ p

theorem unchangedBut_mono {W W' : Piece → Prop} {t t' : State} (hW : ∀ p, W p → W' p)
    (h : unchangedBut W t t') : unchangedBut W' t t' :=
  fun p hp => h p fun hw => hp (hW p hw)

/-- What has the same image as a next state is a next state. -/
theorem eq_next_of_mapOutcome_eq {f : State → State} {o : Host.Outcome State Fault Refusal} {t : State}
    (h : mapOutcome f o = mapOutcome f (.next t)) : ∃ t', o = .next t' ∧ f t' = f t := by
  cases o with
  | next t' => exact ⟨t', rfl, Host.Outcome.next.inj h⟩
  | _ => cases h

/-- What has the same image as a fault is a fault with the same error. -/
theorem eq_fault_of_mapOutcome_eq {f : State → State} {o : Host.Outcome State Fault Refusal} {g : Fault}
    (h : mapOutcome f o = mapOutcome f (.fault g)) :
    ∃ g', o = .fault g' ∧ g'.error = g.error ∧ f g'.after = f g.after := by
  cases o with
  | fault g' =>
    have hg : g'.mapAfter f = g.mapAfter f := Host.Outcome.fault.inj h
    have herror := congrArg Fault.error hg
    have hafter := congrArg Fault.after hg
    rw [mapAfter_error, mapAfter_error] at herror
    rw [mapAfter_after, mapAfter_after] at hafter
    exact ⟨g', rfl, herror, hafter⟩
  | _ => cases h

/-- The steps from two states have the same outcome, error included, and leave states that differ in these pieces
only. -/
def StepsAgreeBut (W : Piece → Prop) (s s' : State) : Prop :=
  (∀ t, step s = .next t → ∃ t', step s' = .next t' ∧ unchangedBut W t t') ∧
  (∀ f, step s = .fault f → ∃ f', step s' = .fault f' ∧ f'.error = f.error ∧ unchangedBut W f.after f'.after)

/-- Changing what a mask hides influences nothing else of a step that does not read it (R68). -/
theorem stepsAgreeBut_of_hide_eq {W : Piece → Prop} {s' : State} (hW : ∀ p, m.hides p → W p)
    (hs : m.hide s' = m.hide s) (h : ∀ i, fetchDecode s = .ok i → m.UnreadBy i) : StepsAgreeBut W s s' := by
  have hstep := step_congr_of_hide_eq hs h
  refine ⟨fun t ht => ?_, fun f hf => ?_⟩
  · rw [ht] at hstep
    obtain ⟨t', ht', hmask⟩ := eq_next_of_mapOutcome_eq hstep
    exact ⟨t', ht', unchangedBut_mono hW (unchangedBut_of_hide_eq hmask)⟩
  · rw [hf] at hstep
    obtain ⟨f', hf', herror, hmask⟩ := eq_fault_of_mapOutcome_eq hstep
    exact ⟨f', hf', herror, unchangedBut_mono hW (unchangedBut_of_hide_eq hmask)⟩

end Sys2Proof.Machine
end

section
/-!
PROOFS. What influences a step (spec/40_step_cycle.md R68): each input of the host's, hidden by its own mask.
-/

namespace Sys2Proof.Machine

/-! The three masks, each with the pieces it hides. -/

def keysMask : HostMask := ⟨true, false, false⟩

def flagsMask : HostMask := ⟨false, true, false⟩

def rndMask : HostMask := ⟨false, false, true⟩

theorem keysMask_hides (p : Piece) (h : keysMask.hides p) : ∃ j, p = .key j := by
  cases p with
  | key j => exact ⟨j, rfl⟩
  | _ => cases h

theorem flagsMask_hides (p : Piece) (h : flagsMask.hides p) : pieces [.drawFlag, .beepFlag] p := by
  cases p with
  | drawFlag | beepFlag => simp
  | _ => cases h

theorem rndMask_hides (p : Piece) (h : rndMask.hides p) : pieces [.rnd] p := by
  cases p with
  | rnd => simp
  | _ => cases h

theorem flagsMask_hide_flags (s : State) (d b : Bool) :
    flagsMask.hide { s with drawFlag := d, beepFlag := b } = flagsMask.hide s := by
  simp [HostMask.hide, flagsMask]

/-- Settles O53: no instruction reads the flags, so hiding both as set before the step leaves the rest of its
outcome. -/
theorem flagsDoNotInfluenceSteps : Obligations.FlagsDoNotInfluenceSteps :=
  fun s d b => stepsAgreeBut_of_hide_eq flagsMask_hides (flagsMask_hide_flags s d b) fun _ _ => ⟨nofun, nofun⟩

/-- Settles O54: states that differ in the keys only are equal under the mask of the keys, and so for the random
input; the hypothesis of each clause says that the step's instruction, if it has one, does not read what is hidden. -/
theorem inputsMatterOnlyToTheirReaders : Obligations.InputsMatterOnlyToTheirReaders :=
  fun _ =>
    ⟨fun h _ => stepsAgreeBut_of_hide_eq keysMask_hides rfl fun i hi => ⟨fun _ => h i hi, nofun⟩,
      fun h _ _ => stepsAgreeBut_of_hide_eq rndMask_hides rfl fun i hi => ⟨nofun, fun _ => h i hi⟩⟩

end Sys2Proof.Machine
end

section
/-!
SUPPORT. The frames of the operations that transfer control (spec/41_flow_control.md, spec/10_state.md R14, R15), the
program counter a skip leaves, and reading an entry back after a push.
-/

namespace Sys2Proof.Machine

theorem jumpTo_frame (s : State) (target : Word) : unchangedBut (pieces [.pc]) s (jumpTo s target) := by
  intro p hp
  cases p with
  | pc => exact absurd (List.mem_singleton_self _) hp
  | rnd => exact ⟨rfl, rfl⟩
  | _ => exact rfl

/-- A skip is a jump to one of two addresses (R64). -/
theorem skipIf_frame (s : State) (c : Bool) : unchangedBut (pieces [.pc]) s (skipIf c s) :=
  jumpTo_frame s (if c then s.pc + 4 else s.pc + 2)

theorem slot_push_ne (s : State) (v : Word) (h : s.sp.val < 16) {k : Fin 16} (hk : k ≠ ⟨s.sp.val, h⟩) :
    (push s v h).stack[k] = s.stack[k] :=
  Vector.getElem_set_ne h k.isLt fun e => hk (Fin.ext e.symm)

theorem push_frame (s : State) (v : Word) (h : s.sp.val < 16) :
    unchangedBut (pieces [.slot ⟨s.sp.val, h⟩, .sp]) s (push s v h) := by
  intro p hp
  cases p with
  | slot k => exact slot_push_ne s v h fun e => hp (by simp [e])
  | sp => exact absurd (by simp) hp
  | rnd => exact ⟨rfl, rfl⟩
  | _ => exact rfl

/-- The popped slot keeps its value (R15, D15). -/
theorem pop_frame (s : State) : unchangedBut (pieces [.sp]) s (pop s) := by
  intro p hp
  cases p with
  | sp => exact absurd (List.mem_singleton_self _) hp
  | rnd => exact ⟨rfl, rfl⟩
  | _ => exact rfl

/-- What an update that keeps all but `ps` leaves unchanged when a jump follows it. -/
theorem jumpTo_frame_after {ps : List Piece} {s t : State} (h : unchangedBut (pieces ps) s t) (target : Word) :
    unchangedBut (pieces (ps ++ [.pc])) s (jumpTo t target) :=
  unchangedBut_trans s t _ _
    (unchangedBut_mono (fun _ hp => List.mem_append_left _ hp) h)
    (unchangedBut_mono (fun _ hp => List.mem_append_right _ hp) (jumpTo_frame t target))

theorem skipIf_beq_pc (s : State) (a b : Byte) :
    (skipIf (a == b) s).pc = if a.toNat = b.toNat then s.pc + 4 else s.pc + 2 := by
  simp only [skipIf_pc, beq_iff_eq, BitVec.toNat_inj]

theorem skipIf_bne_pc (s : State) (a b : Byte) :
    (skipIf (a != b) s).pc = if a.toNat = b.toNat then s.pc + 2 else s.pc + 4 := by
  simp only [skipIf_pc, bne_iff_ne, BitVec.toNat_inj, ite_not]

/-- The target of BNNN is the exact sum: it stays below 65536 (R77, D11). -/
theorem indexedTarget_toNat (nnn : Addr12) (v : Byte) :
    (addrOperand nnn + v.setWidth 16).toNat = nnn.toNat + v.toNat := by
  have := nnn.isLt
  have := v.isLt
  rw [BitVec.toNat_add, addrOperand_toNat, BitVec.toNat_setWidth]
  omega

/-- 2NNN completes exactly when a slot is free (R72). -/
theorem exec_call_eq_next {s t : State} {nnn : Addr12} :
    exec (.call nnn) s = .next t ↔
      ∃ h : s.sp.val < 16, t = jumpTo (push s s.pc h) (addrOperand nnn) := by
  obtain hsp | hsp := Nat.lt_or_ge s.sp.val 16
  · simp [exec_call_of_lt nnn hsp, hsp, eq_comm]
  · simp [exec_call_of_ge nnn hsp, raise_ne_next, hsp]

/-- The newest entry, in any state with the stack and `sp` a push left, is the pushed value. -/
theorem stackTop_of_push {s u : State} {v : Word} (h : s.sp.val < 16) (hu : 0 < u.sp.val)
    (hstack : u.stack = (push s v h).stack) (hsp : u.sp = (push s v h).sp) : stackTop u hu = v := by
  simp [stackTop, hstack, hsp]

end Sys2Proof.Machine
end

section
/-!
PROOFS. Control transfer (spec/41_flow_control.md): each instruction's next state is a `push`, a `pop`, a jump or a
skip, and its statement is what those operations write together with their frames.
-/

namespace Sys2Proof.Machine

/-- Settles O18: the zero-extended operand is the target. -/
theorem jumpGoesToItsAddress : Obligations.JumpGoesToItsAddress :=
  fun s nnn => ⟨jumpTo s (addrOperand nnn), rfl, addrOperand_toNat nnn, jumpTo_frame s _⟩

/-- Settles O19: the sum of a 12-bit and an 8-bit number does not overflow the program counter. -/
theorem indexedJumpAddsV0 : Obligations.IndexedJumpAddsV0 :=
  fun s nnn => ⟨jumpTo s (addrOperand nnn + (readReg s 0).setWidth 16), rfl,
    indexedTarget_toNat nnn (readReg s 0), jumpTo_frame s _⟩

/-- Settles O20: below sixteen entries a push and a jump, whose frames join; at sixteen the error. -/
theorem callPushesItsOwnAddress : Obligations.CallPushesItsOwnAddress := by
  intro s nnn
  refine ⟨fun h => ⟨_, exec_call_of_lt nnn h, ?_, rfl, addrOperand_toNat nnn, ?_⟩, fun h => ?_⟩
  · exact Vector.getElem_set_self h
  · exact jumpTo_frame_after (push_frame s s.pc h) _
  · exact exec_call_of_ge nnn (Nat.le_of_eq h.symm)

/-- Settles O21: with an entry a pop and a jump past the call that pushed it; with none the error. -/
theorem returnPopsAndAddsTwo : Obligations.ReturnPopsAndAddsTwo := by
  intro s
  refine ⟨fun h => ⟨_, exec_ret_of_pos h, ?_, rfl, ?_⟩, exec_ret_of_zero⟩
  · exact BitVec.toNat_add _ _
  · exact jumpTo_frame_after (pop_frame s) _

/-- Settles O22: the call pushed its own address, so the entry the return pops is that address. -/
theorem returnUndoesCall : Obligations.ReturnUndoesCall := by
  intro s t u nnn hcall hstack hsp
  obtain ⟨h, rfl⟩ := exec_call_eq_next.mp hcall
  have hu : u.sp.val = s.sp.val + 1 := congrArg Fin.val hsp
  have hpos : 0 < u.sp.val := by omega
  have htop : stackTop u hpos = s.pc := stackTop_of_push h hpos hstack hsp
  refine ⟨_, exec_ret_of_pos hpos, congrArg (· + 2) htop, Fin.ext ?_⟩
  show u.sp.val - 1 = s.sp.val
  omega

/-- Settles O23: equality of bytes is equality of their numbers, and a skip writes `pc` only. -/
theorem skipsAddFourOrTwo : Obligations.SkipsAddFourOrTwo :=
  fun s x y nn =>
    ⟨⟨skipIf (readReg s x == nn) s, rfl, skipIf_frame s _, skipIf_beq_pc s _ _⟩,
      ⟨skipIf (readReg s x != nn) s, rfl, skipIf_frame s _, skipIf_bne_pc s _ _⟩,
      ⟨skipIf (readReg s x == readReg s y) s, rfl, skipIf_frame s _, skipIf_beq_pc s _ _⟩,
      ⟨skipIf (readReg s x != readReg s y) s, rfl, skipIf_frame s _, skipIf_bne_pc s _ _⟩⟩

end Sys2Proof.Machine
end

section
/-!
SUPPORT. What the two shapes of a register instruction leave (spec/42_load_alu.md, spec/10_state.md R9 to R12): the
destination, VF where it is not the destination, and the frame; and each flag as the number VF holds.
-/

namespace Sys2Proof.Machine

theorem writeReg_frame (s : State) (r : Reg) (v : Byte) : unchangedBut (pieces [.reg r]) s (writeReg s r v) := by
  intro p hp
  cases p with
  | reg i => exact readReg_writeReg_ne s r i v fun e => hp (by simp [e])
  | rnd => exact ⟨rfl, rfl⟩
  | _ => exact rfl

theorem writeVF_frame (s : State) (b : Bool) : unchangedBut (pieces [.reg 15]) s (writeVF s b) :=
  writeReg_frame s 15 (flagByte b)

theorem readReg_result (s : State) (x : Reg) (v : Byte) : readReg (advance (writeReg s x v)) x = v :=
  readReg_writeReg_same s x v

/-- To advance is to jump to the next instruction (R64). -/
theorem result_frame (s : State) (x : Reg) (v : Byte) :
    unchangedBut (pieces [.reg x, .pc]) s (advance (writeReg s x v)) :=
  jumpTo_frame_after (writeReg_frame s x v) (s.pc + 2)

/-- The flag is written first, so it stays where the result goes elsewhere (R9). -/
theorem readReg_flagResult_VF (s : State) (b : Bool) {x : Reg} (v : Byte) (h : x ≠ 15) :
    readReg (advance (writeReg (writeVF s b) x v)) 15 = flagByte b :=
  (readReg_writeReg_ne (writeVF s b) x 15 v h.symm).trans (readReg_writeReg_same s 15 (flagByte b))

theorem flagResult_frame (s : State) (b : Bool) (x : Reg) (v : Byte) :
    unchangedBut (pieces [.reg x, .reg 15, .pc]) s (advance (writeReg (writeVF s b) x v)) := by
  have hresult : unchangedBut (pieces [.reg x, .pc]) (writeVF s b) (advance (writeReg (writeVF s b) x v)) :=
    result_frame (writeVF s b) x v
  refine unchangedBut_trans s _ _ _ (unchangedBut_mono ?_ (writeVF_frame s b)) (unchangedBut_mono ?_ hresult)
  · exact fun p hp => by simp [List.mem_singleton.mp hp]
  · exact fun p hp => ((List.sublist_cons_self (Piece.reg 15) [.pc]).cons_cons (.reg x)).mem hp

/-- An instruction that writes a flag and a result, its values given as numbers (R9, R79): with X = 15 the result
stands in VF (D7). -/
theorem setFlagResult_completes (s : State) {b : Bool} (x : Reg) {v : Byte} {result flag : Nat}
    (hv : v.toNat = result) (hb : (flagByte b).toNat = flag) :
    ∃ t, setFlagResult s b x v = .next t ∧ (readReg t x).toNat = result ∧
      (x ≠ 15 → (readReg t 15).toNat = flag) ∧
      t.pc = s.pc + 2 ∧ unchangedBut (pieces [.reg x, .reg 15, .pc]) s t := by
  refine ⟨advance (writeReg (writeVF s b) x v), rfl, ?_, fun hx => ?_, rfl, flagResult_frame s b x v⟩
  · rw [readReg_result, hv]
  · rw [readReg_flagResult_VF s b v hx, hb]

/-! The flags as numbers. -/

theorem flagByte_toNat (b : Bool) : (flagByte b).toNat = b.toNat := by cases b <;> rfl

theorem flagByte_decide_toNat (p : Prop) [Decidable p] : (flagByte (decide p)).toNat = if p then 1 else 0 := by
  by_cases h : p <;> simp [flagByte, h]

theorem carryOut_toNat (a b : Byte) :
    (flagByte (carryOut a b)).toNat = if a.toNat + b.toNat > 255 then 1 else 0 :=
  flagByte_decide_toNat _

/-- The flag of a subtraction is its negated borrow (R87, R89). -/
theorem noBorrow_toNat (a b : Byte) :
    (flagByte (noBorrow a b)).toNat = if b.toNat > a.toNat then 0 else 1 := by
  simp only [noBorrow, flagByte_decide_toNat, gt_iff_lt, ← Nat.not_le, ite_not]

theorem shiftOutRight_toNat (a : Byte) : (flagByte (shiftOutRight a)).toNat = a.toNat % 2 := by
  rw [flagByte_toNat, shiftOutRight, BitVec.getLsbD, Nat.toNat_testBit, Nat.pow_zero, Nat.div_one]

/-- A byte's bit 7 is its quotient by 128 (R90). -/
theorem shiftOutLeft_toNat (a : Byte) : (flagByte (shiftOutLeft a)).toNat = a.toNat / 128 := by
  have := a.isLt
  rw [flagByte_toNat, shiftOutLeft, BitVec.getLsbD, Nat.toNat_testBit]
  omega

/-! The results as numbers. -/

theorem sub_toNat (a b : Byte) : (a - b).toNat = (a.toNat + 256 - b.toNat) % 256 := by
  bv_omega

theorem shiftLeft_one_toNat (a : Byte) : (a <<< 1).toNat = a.toNat * 2 % 256 := by
  rw [BitVec.toNat_shiftLeft, Nat.shiftLeft_eq]

theorem shiftRight_one_toNat (a : Byte) : (a >>> 1).toNat = a.toNat / 2 := by
  rw [BitVec.toNat_ushiftRight, Nat.shiftRight_one]

/-! The host's random byte (R22, R60). -/

theorem rndByte_supplyRnd (rnd : Byte) (s : State) : rndByte (supplyRnd rnd s) = rnd := rfl

/-- Supplying a random byte does not touch what fetch and decode read. -/
theorem fetchDecode_supplyRnd_eq_ok (rnd : Byte) (s : State) (i : Instr) :
    fetchDecode (supplyRnd rnd s) = .ok i ↔ fetchDecode s = .ok i := by
  rw [fetchDecode_eq_ok, fetchDecode_eq_ok]
  rfl

theorem stepResult_of_next {s t : State} (h : step s = .next t) : stepResult s = (t, none) := by
  rw [stepResult, h]

end Sys2Proof.Machine
end

section
/-!
PROOFS. Load, arithmetic, logic, shift and random (spec/42_load_alu.md): each instruction is one of the two shapes, and
its statement is the value the shape is given.
-/

namespace Sys2Proof.Machine

/-- Settles O24: three results without a flag; the sum is the bit vectors' own. -/
theorem loadsAndByteAddWriteOnlyVX : Obligations.LoadsAndByteAddWriteOnlyVX := by
  refine fun s x y nn => ⟨⟨_, rfl, ?_, rfl, result_frame s x _⟩, ⟨_, rfl, ?_, rfl, result_frame s x _⟩,
    ⟨_, rfl, ?_, rfl, result_frame s x _⟩⟩
  · exact readReg_result s x nn
  · rw [readReg_result, BitVec.toNat_add]
  · exact readReg_result s x (readReg s y)

/-- Settles O25: the bit vectors' operations act on every bit. -/
theorem logicWritesOnlyVX : Obligations.LogicWritesOnlyVX := by
  refine fun s x y => ⟨⟨_, rfl, fun k => ?_, rfl, result_frame s x _⟩,
    ⟨_, rfl, fun k => ?_, rfl, result_frame s x _⟩, ⟨_, rfl, fun k => ?_, rfl, result_frame s x _⟩⟩
  · rw [readReg_result, BitVec.getLsbD_or]
  · rw [readReg_result, BitVec.getLsbD_and]
  · rw [readReg_result, BitVec.getLsbD_xor]

/-- Settles O26: the flag is the carry of the exact sum. -/
theorem addReportsCarry : Obligations.AddReportsCarry :=
  fun s x _ => setFlagResult_completes s x (BitVec.toNat_add _ _) (carryOut_toNat _ _)

/-- Settles O27: one subtraction with its operands in either order. -/
theorem subtractionsReportNotBorrow : Obligations.SubtractionsReportNotBorrow :=
  fun s x _ =>
    ⟨setFlagResult_completes s x (sub_toNat _ _) (noBorrow_toNat _ _),
      setFlagResult_completes s x (sub_toNat _ _) (noBorrow_toNat _ _)⟩

/-- Settles O28: shifts by one place are a division and a product by 2; neither meaning mentions Y. -/
theorem shiftsReportTheBitShiftedOut : Obligations.ShiftsReportTheBitShiftedOut :=
  fun s x _ =>
    ⟨setFlagResult_completes s x (shiftRight_one_toNat _) (shiftOutRight_toNat _),
      setFlagResult_completes s x (shiftLeft_one_toNat _) (shiftOutLeft_toNat _),
      fun _ => ⟨rfl, rfl⟩⟩

/-- Settles O29: a bit of `rnd AND NN` is a bit of NN, for the free value too (D2, log entry 2); a supplied byte is the
one drawn. -/
theorem randomByteIsMasked : Obligations.RandomByteIsMasked := by
  refine fun s x nn => ⟨⟨_, rfl, fun k hk => ?_, rfl, result_frame s x _⟩, fun rnd => ⟨_, rfl, ?_⟩⟩
  · rw [readReg_result, BitVec.getLsbD_and, Bool.and_eq_true] at hk
    exact hk.2
  · rw [readReg_result, rndByte_supplyRnd]

/-- Settles O30: the step fetches the same CXNN with the byte supplied, and its end drops that byte and writes no
register (D2, log entry 2). -/
theorem hostStepSuppliesTheRandomByte : Obligations.HostStepSuppliesTheRandomByte := by
  intro s rnd x nn hfetch
  obtain ⟨-, hmasked⟩ := randomByteIsMasked s x nn
  obtain ⟨u, hu, hx⟩ := hmasked rnd
  have hstep : step (supplyRnd rnd s) = .next (endStep u) :=
    (step_eq_next _ _).mpr ⟨_, u, (fetchDecode_supplyRnd_eq_ok rnd s _).mpr hfetch, hu, rfl⟩
  have hhost : applyHostOp (.step rnd) s = (endStep u, none) := stepResult_of_next hstep
  rw [hhost]
  refine ⟨hx, rfl, ?_⟩
  cases hu
  rfl

end Sys2Proof.Machine
end

section
/-!
SUPPORT. What the index register and the memory transfers write (spec/43_index_memory.md, spec/20_memory.md R33, R36):
the range check on either side of its bound, the frames of a store, a load and a write of `I`, and the values written
as numbers.
-/

namespace Sys2Proof.Machine

/-! The range check of an access of at least one byte (R36). -/

theorem checkRange_inside {base last : Nat} (s t : State) (h : base + last ≤ 0xFFF) :
    checkRange base (last + 1) s t = .next t :=
  (checkRange_eq_next ..).mpr ⟨.inr (Nat.succ_le_succ h), rfl⟩

theorem checkRange_outside {base last : Nat} (s t : State) (h : base + last > 0xFFF) :
    checkRange base (last + 1) s t = .fault (.memoryOutOfRange (max base 0x1000) s) :=
  (checkRange_eq_fault ..).mpr ⟨by omega, rfl⟩

theorem exec_ldVxMem_inside {s : State} {x : Reg} (h : s.I.toNat + x.val ≤ 0xFFF) :
    exec (.ldVxMem x) s = .next (advance (writeI (writeRegs s (loadedRegs s x)) (indexAfter s x))) :=
  checkRange_inside s _ h

/-! Frames. -/

/-- Two updates in a row change at most what either of them changes. -/
theorem unchangedBut_or {W W' : Piece → Prop} {s t u : State} (h : unchangedBut W s t)
    (h' : unchangedBut W' t u) : unchangedBut (fun p => W p ∨ W' p) s u :=
  unchangedBut_trans s t u _ (unchangedBut_mono (fun _ => .inl) h) (unchangedBut_mono (fun _ => .inr) h')

theorem writeI_frame (s : State) (v : Word) : unchangedBut (pieces [.I]) s (writeI s v) := by
  intro p hp
  cases p with
  | I => exact absurd (List.mem_singleton_self _) hp
  | rnd => exact ⟨rfl, rfl⟩
  | _ => exact rfl

theorem indexResult_frame (s : State) (v : Word) :
    unchangedBut (pieces [.I, .pc]) s (advance (writeI s v)) :=
  jumpTo_frame_after (writeI_frame s v) (s.pc + 2)

theorem flagIndexResult_frame (s : State) (b : Bool) (v : Word) :
    unchangedBut (pieces [.reg 15, .I, .pc]) s (advance (writeI (writeVF s b) v)) := by
  refine unchangedBut_mono (fun p hp => ?_)
    (unchangedBut_or (writeVF_frame s b) (indexResult_frame (writeVF s b) v))
  simpa using hp

/-- A run of stores writes the bytes it covers and nothing else (R33). -/
theorem storeBytes_frame (s : State) (a : Nat) (vs : List Byte) :
    unchangedBut (fun p => ∃ k < vs.length, p = .mem (a + k)) s (writeMem s (storeBytes s.mem a vs)) := by
  intro p hp
  cases p with
  | mem b =>
    refine memRead_storeBytes_outside s.mem a b vs ?_
    by_contra hin
    exact hp ⟨b - a, by omega, congrArg Piece.mem (by omega)⟩
  | rnd => exact ⟨rfl, rfl⟩
  | _ => exact rfl

/-- Setting the register file keeps all but the registers it gives another value. -/
theorem writeRegs_frame {W : Piece → Prop} (s : State) (regs : Vector Byte 16)
    (h : ∀ r : Reg, ¬ W (.reg r) → regs[r] = readReg s r) : unchangedBut W s (writeRegs s regs) := by
  intro p hp
  cases p with
  | reg r => exact h r hp
  | rnd => exact ⟨rfl, rfl⟩
  | _ => exact rfl

/-- FX65 loads the registers up to VX and nothing else (R100). -/
theorem loadedRegs_frame (s : State) (x : Reg) :
    unchangedBut (fun p => ∃ r ≤ x, p = .reg r) s (writeRegs s (loadedRegs s x)) :=
  writeRegs_frame s _ fun r hr => readReg_loadedRegs_above s x r fun hle => hr ⟨r, hle, rfl⟩

/-! The values written. -/

theorem readReg_loadedRegs_upTo (s : State) {x r : Reg} (h : r ≤ x) :
    (loadedRegs s x)[r] = memRead s.mem (s.I.toNat + r.val) := by
  simp [loadedRegs, h]

/-- After a transfer inside memory `I` does not wrap (R99, R100). -/
theorem indexAfter_toNat {s : State} {x : Reg} (h : s.I.toNat + x.val ≤ 0xFFF) :
    (indexAfter s x).toNat = s.I.toNat + x.val + 1 := by
  rw [indexAfter, transferCount, BitVec.toNat_add, BitVec.toNat_ofNat]
  omega

theorem ldMemVx_I {s t : State} {x : Reg} (h : exec (.ldMemVx x) s = .next t) : t.I = indexAfter s x := by
  obtain ⟨-, rfl⟩ := checkRange_next (Nat.succ_ne_zero _) h
  rfl

/-- The sum FX1E leaves in `I` (R96, D11). -/
theorem indexSum_toNat (i : Word) (v : Byte) :
    (i + v.setWidth 16).toNat = (i.toNat + v.toNat) % 65536 := by
  rw [BitVec.toNat_add, BitVec.toNat_setWidth_of_le (by decide)]

theorem indexOverflow_toNat (i : Word) (v : Byte) :
    (flagByte (indexOverflow i v)).toNat = if i.toNat + v.toNat > 0xFFF then 1 else 0 :=
  flagByte_decide_toNat _

/-- Five times a byte fits 16 bits (R97). -/
theorem glyphAddr_toNat (v : Byte) : (glyphAddr v).toNat = v.toNat * 5 := by
  have := v.isLt
  rw [glyphAddr, BitVec.toNat_ofNat]
  omega

/-- Each quotient or remainder of a byte fits a byte (R98). -/
theorem decimalDigits_toNat (v : Byte) :
    (decimalDigits v).map BitVec.toNat = [v.toNat / 100, v.toNat / 10 % 10, v.toNat % 10] := by
  have := v.isLt
  simp only [decimalDigits, List.map_cons, List.map_nil, BitVec.toNat_ofNat, List.cons.injEq, and_true]
  omega

/-- The bytes FX33 leaves, as numbers (R98). -/
theorem memRead_decimalDigits (m : Memory) (a : Nat) (v : Byte) {k : Nat} (h : k < 3) :
    (memRead (storeBytes m a (decimalDigits v)) (a + k)).toNat =
      [v.toNat / 100, v.toNat / 10 % 10, v.toNat % 10][k] := by
  rw [memRead_storeBytes_inside m a (decimalDigits v) k h]
  simp only [← decimalDigits_toNat]
  exact (List.getElem_map BitVec.toNat).symm

end Sys2Proof.Machine
end

section
/-!
PROOFS. The index register and the memory transfers (spec/43_index_memory.md): each meaning sets `I`, memory or the
register file, the transfers behind their range check.
-/

namespace Sys2Proof.Machine

/-- Settles O31: the operand is extended by zeros. -/
theorem loadIndexWritesOnlyI : Obligations.LoadIndexWritesOnlyI :=
  fun s nnn => ⟨_, rfl, addrOperand_toNat nnn, rfl, indexResult_frame s _⟩

/-- Settles O32: both the sum and the flag are computed from the old VX, so X = 15 needs no case (D7, D11). -/
theorem addIndexReportsOverflow : Obligations.AddIndexReportsOverflow := by
  refine fun s x => ⟨_, rfl, indexSum_toNat s.I (readReg s x), ?_, rfl, flagIndexResult_frame s _ _⟩
  rw [readReg_advance, readReg_writeI, readReg_writeVF, if_pos rfl]
  exact indexOverflow_toNat s.I (readReg s x)

/-- Settles O33: the product with the whole register stays below 65536 (D11). -/
theorem fontLookupMultipliesByFive : Obligations.FontLookupMultipliesByFive :=
  fun s x => ⟨_, rfl, glyphAddr_toNat (readReg s x), rfl, indexResult_frame s _⟩

/-- Settles O34: inside memory a run of three stores, else the range check's error (D4, D5). -/
theorem decimalDigitsAreStored : Obligations.DecimalDigitsAreStored := by
  intro s x
  refine ⟨fun h => ⟨_, checkRange_inside s _ h, ?_, ?_, ?_, rfl, ?_⟩, checkRange_outside s _⟩
  · exact memRead_decimalDigits s.mem s.I.toNat (readReg s x) (k := 0) (by decide)
  · exact memRead_decimalDigits s.mem s.I.toNat (readReg s x) (k := 1) (by decide)
  · exact memRead_decimalDigits s.mem s.I.toNat (readReg s x) (k := 2) (by decide)
  · refine jumpTo_frame_after (ps := [_, _, _]) (unchangedBut_mono ?_ (storeBytes_frame s s.I.toNat _)) _
    rintro p ⟨k, hk, rfl⟩
    have hk3 : k < 3 := hk
    obtain rfl | rfl | rfl : k = 0 ∨ k = 1 ∨ k = 2 := by omega
    all_goals simp

/-- Settles O35: inside memory a run of X + 1 stores and a write of `I`, else the range check's error (D4, D5). -/
theorem registersAreStored : Obligations.RegistersAreStored := by
  intro s x
  refine ⟨fun h => ?_, checkRange_outside s _⟩
  have hexec : exec (.ldMemVx x) s = .next _ := checkRange_inside s _ h
  refine ⟨_, hexec, fun r hr => memRead_ldMemVx hexec hr, indexAfter_toNat h, rfl, ?_⟩
  refine unchangedBut_mono ?_
    (unchangedBut_or (storeBytes_frame s s.I.toNat (storedRegs s x)) (indexResult_frame _ _))
  rintro p (⟨k, hk, rfl⟩ | hp)
  · rw [storedRegs_length] at hk
    have hkx : k ≤ x.val := Nat.le_of_lt_succ hk
    exact .inr ⟨⟨k, Nat.lt_of_le_of_lt hkx x.isLt⟩, hkx, rfl⟩
  · exact .inl hp

/-- Settles O36: inside memory the register file up to VX is the bytes at `I`, else the range check's error (D4, D5). -/
theorem registersAreLoaded : Obligations.RegistersAreLoaded := by
  intro s x
  refine ⟨fun h => ?_, checkRange_outside s _⟩
  refine ⟨_, exec_ldVxMem_inside h, fun r hr => ?_, indexAfter_toNat h, by simp, ?_⟩
  · rw [readReg_advance, readReg_writeI, readReg_writeRegs]
    exact readReg_loadedRegs_upTo s hr
  · exact unchangedBut_mono (fun _ => Or.symm)
      (unchangedBut_or (loadedRegs_frame s x) (indexResult_frame _ _))

/-- Settles O37: the load's access is the store's, so it is inside memory, and it reads the bytes the store left. -/
theorem storeThenLoadRestoresRegisters : Obligations.StoreThenLoadRestoresRegisters := by
  intro s t u x hstore hmem hI
  obtain ⟨hrange, -⟩ := ldMemVx_next hstore
  have hinside : u.I.toNat + x.val ≤ 0xFFF := by
    rw [hI]
    exact Nat.le_of_succ_le_succ hrange
  refine ⟨_, exec_ldVxMem_inside hinside, fun r hr => ?_, ?_⟩
  · calc (loadedRegs u x)[r] = memRead u.mem (u.I.toNat + r.val) := readReg_loadedRegs_upTo u hr
      _ = memRead t.mem (s.I.toNat + r.val) := by rw [hmem, hI]
      _ = readReg s r := memRead_ldMemVx hstore hr
  · calc indexAfter u x = indexAfter s x := by rw [indexAfter, hI, indexAfter]
      _ = t.I := (ldMemVx_I hstore).symm

end Sys2Proof.Machine
end

section
/-!
SUPPORT. What clearing and drawing leave in the framebuffer (spec/44_display.md R105, R106): the pixels of a sprite are
drawn row by row, each row from left to right, and meet different cells, so that after each of them a cell is its old
value exclusive-ORed with the one sprite bit drawn over it so far, if any.
-/

namespace Sys2Proof.Machine

/-! Cells. -/

theorem cell_clearFb (y : Fin 32) (x : Fin 64) : cell clearFb y x = false := by
  simp [cell, clearFb]

/-- Reading any cell after one was flipped. -/
theorem cell_flipCell (fb : Framebuffer) (y row : Fin 32) (x col : Fin 64) :
    cell (flipCell fb y x) row col = if row = y ∧ col = x then !cell fb y x else cell fb row col := by
  obtain rfl | hy := eq_or_ne row y
  · obtain rfl | hx := eq_or_ne col x
    · simp [cell, flipCell]
    · simp [cell, flipCell, hx, Fin.val_ne_of_ne hx.symm]
  · simp [cell, flipCell, hy, Fin.val_ne_of_ne hy.symm]

/-- A framebuffer is its cells. -/
theorem framebuffer_ext {fb fb' : Framebuffer} (h : ∀ row col, cell fb row col = cell fb' row col) : fb = fb' :=
  Vector.ext fun y hy => Vector.ext fun x hx => h ⟨y, hy⟩ ⟨x, hx⟩

/-! Counting a cell's row and column from the sprite's corner, wrapped (R39). -/

/-- How many rows below the sprite's top row a cell lies, wrapped modulo 32. -/
def rowOffset (vy : Byte) (row : Fin 32) : Nat := (row.val + 256 - vy.toNat) % 32

/-- How many columns right of the sprite's left column a cell lies, wrapped modulo 64. -/
def colOffset (vx : Byte) (col : Fin 64) : Nat := (col.val + 256 - vx.toNat) % 64

/-- The sprite's row `r` lies in the one row that is `r` rows from its corner. -/
theorem rowOffset_eq_iff (vy : Byte) (row : Fin 32) {r : Nat} (hr : r < 32) :
    rowOffset vy row = r ↔ row = spriteRow vy r := by
  have := vy.isLt
  simp only [rowOffset, spriteRow, Fin.ext_iff, Fin.val_ofNat]
  omega

theorem colOffset_eq_iff (vx : Byte) (col : Fin 64) {c : Nat} (hc : c < 64) :
    colOffset vx col = c ↔ col = spriteCol vx c := by
  have := vx.isLt
  simp only [colOffset, spriteCol, Fin.ext_iff, Fin.val_ofNat]
  omega

/-! The sprite bits drawn so far. -/

/-- The sprite bit over a cell, of the sprite whose row `i` is `bytes i`, if its pixel comes before column `c` of row `r`
in the order of drawing; else 0. -/
def drawnBit (vx vy : Byte) (bytes : Nat → Byte) (r c : Nat) (row : Fin 32) (col : Fin 64) : Bool :=
  decide (rowOffset vy row < r ∨ rowOffset vy row = r ∧ colOffset vx col < c) && decide (colOffset vx col < 8) &&
    (bytes (rowOffset vy row)).getLsbD (7 - colOffset vx col)

variable {vx vy : Byte} {bytes : Nat → Byte} {r c : Nat}

theorem drawnBit_start (row : Fin 32) (col : Fin 64) : drawnBit vx vy bytes 0 0 row col = false := by
  simp [drawnBit]

/-- All eight columns of a row are the start of the next row. -/
theorem drawnBit_rowEnd : drawnBit vx vy bytes r 8 = drawnBit vx vy bytes (r + 1) 0 := by
  funext row col
  rw [Bool.eq_iff_iff]
  simp only [drawnBit, Bool.and_eq_true, decide_eq_true_eq]
  refine and_congr_left fun _ => ?_
  omega

/-- A pixel's own cell is not drawn over before it. -/
theorem drawnBit_at_pixel (hr : r < 32) (hc : c < 8) :
    drawnBit vx vy bytes r c (spriteRow vy r) (spriteCol vx c) = false := by
  have hrow : rowOffset vy (spriteRow vy r) = r := (rowOffset_eq_iff vy _ hr).mpr rfl
  have hcol : colOffset vx (spriteCol vx c) = c := (colOffset_eq_iff vx _ (by omega)).mpr rfl
  simp [drawnBit, hrow, hcol]

/-- A pixel adds its bit at its own cell and none elsewhere. -/
theorem drawnBit_succ (hr : r < 32) (hc : c < 8) (row : Fin 32) (col : Fin 64) :
    drawnBit vx vy bytes r (c + 1) row col =
      ((bytes r).getLsbD (7 - c) && decide (row = spriteRow vy r ∧ col = spriteCol vx c) ||
        drawnBit vx vy bytes r c row col) := by
  simp only [← rowOffset_eq_iff vy row hr, ← colOffset_eq_iff vx col (Nat.lt_trans hc (by decide))]
  obtain hrow | hrow := eq_or_ne (rowOffset vy row) r
  · obtain hcol | hcol := eq_or_ne (colOffset vx col) c
    · simp [drawnBit, hrow, hcol, hc]
    · have : colOffset vx col < c + 1 ↔ colOffset vx col < c := by omega
      simp [drawnBit, hrow, hcol, this]
  · simp [drawnBit, hrow]

/-- The statements' sprite bit, in the offsets of its cell. -/
theorem spriteBit_eq (s : State) (x y : Reg) (n : RowCount) (row : Fin 32) (col : Fin 64) :
    spriteBit s x y n row col =
      (decide (rowOffset (readReg s y) row < n.val) && decide (colOffset (readReg s x) col < 8) &&
        (memRead s.mem (s.I.toNat + rowOffset (readReg s y) row)).getLsbD (7 - colOffset (readReg s x) col)) :=
  rfl

/-- The bits before row N are the whole sprite's. -/
theorem drawnBit_sprite (s : State) (x y : Reg) (n : RowCount) :
    drawnBit (readReg s x) (readReg s y) (fun i => memRead s.mem (s.I.toNat + i)) n.val 0 = spriteBit s x y n := by
  funext row col
  simp [drawnBit, spriteBit_eq]

/-! Drawing. -/

/-- A framebuffer and collision are those of `bits` drawn over `fb`: every cell is exclusive-ORed with its bit, and a
collision is a bit that met a set cell (R106). -/
structure Overlaid (fb : Framebuffer) (bits : Fin 32 → Fin 64 → Bool) (acc : Framebuffer × Bool) : Prop where
  cells : ∀ row col, cell acc.1 row col = (cell fb row col ^^ bits row col)
  collision : acc.2 = true ↔ ∃ row col, bits row col = true ∧ cell fb row col = true

variable {fb : Framebuffer} {acc : Framebuffer × Bool}

theorem overlaid_start : Overlaid fb (drawnBit vx vy bytes 0 0) (fb, false) :=
  ⟨by simp [drawnBit_start], by simp [drawnBit_start]⟩

/-- Flipping a cell no bit was drawn over draws a bit there. -/
theorem Overlaid.flip {bits : Fin 32 → Fin 64 → Bool} {y : Fin 32} {x : Fin 64} (h : Overlaid fb bits acc)
    (hnew : bits y x = false) :
    Overlaid fb (fun row col => decide (row = y ∧ col = x) || bits row col)
      (flipCell acc.1 y x, acc.2 || cell acc.1 y x) := by
  have hold : cell acc.1 y x = cell fb y x := by rw [h.cells, hnew, Bool.xor_false]
  refine ⟨fun row col => ?_, ?_⟩
  · rw [cell_flipCell]
    split
    · rename_i hpixel
      obtain ⟨rfl, rfl⟩ := hpixel
      simp [hold]
    · rename_i hother
      simp [h.cells, hother]
  · simp only [Bool.or_eq_true, hold, h.collision, decide_eq_true_eq, or_and_right, exists_or]
    rw [or_comm]
    refine or_congr_left ⟨fun hset => ⟨y, x, ⟨rfl, rfl⟩, hset⟩, ?_⟩
    rintro ⟨_, _, ⟨rfl, rfl⟩, hset⟩
    exact hset

/-- A pixel draws its bit. -/
theorem Overlaid.after_drawPixel (hr : r < 32) (hc : c < 8) (h : Overlaid fb (drawnBit vx vy bytes r c) acc) :
    Overlaid fb (drawnBit vx vy bytes r (c + 1)) (drawPixel vx vy r (bytes r) acc c) := by
  have hbits := funext₂ (drawnBit_succ (vx := vx) (vy := vy) (bytes := bytes) hr hc)
  unfold drawPixel
  split
  · rename_i hset
    simp only [hset, Bool.true_and] at hbits
    exact hbits ▸ h.flip (drawnBit_at_pixel hr hc)
  · rename_i hunset
    simp only [hunset, Bool.false_and, Bool.false_or] at hbits
    exact hbits ▸ h

/-- The first `k` columns of a row, by induction on `k`. -/
theorem Overlaid.after_drawPixels {k : Nat} (hr : r < 32) (hk : k ≤ 8)
    (h : Overlaid fb (drawnBit vx vy bytes r 0) acc) :
    Overlaid fb (drawnBit vx vy bytes r k) ((List.range k).foldl (drawPixel vx vy r (bytes r)) acc) := by
  induction k with
  | zero => exact h
  | succ k ih =>
    rw [List.range_succ, List.foldl_concat]
    exact (ih (Nat.le_of_succ_le hk)).after_drawPixel hr hk

theorem Overlaid.after_drawRow (hr : r < 32) (h : Overlaid fb (drawnBit vx vy bytes r 0) acc) :
    Overlaid fb (drawnBit vx vy bytes (r + 1) 0) (drawRow vx vy r (bytes r) acc) :=
  drawnBit_rowEnd (bytes := bytes) ▸ h.after_drawPixels hr (Nat.le_refl 8)

/-- The next `k` rows, by induction on `k`. -/
theorem Overlaid.after_drawRows {k : Nat} (hr : r + k ≤ 32) (h : Overlaid fb (drawnBit vx vy bytes r 0) acc) :
    Overlaid fb (drawnBit vx vy bytes (r + k) 0) (drawRows vx vy r ((List.range' r k).map bytes) acc) := by
  induction k generalizing r acc with
  | zero => exact h
  | succ k ih =>
    rw [Nat.add_succ, ← Nat.succ_add]
    exact ih (by omega) (h.after_drawRow (by omega))

/-- DXYN draws its sprite over the framebuffer (R106). -/
theorem drawSprite_overlaid (s : State) (x y : Reg) (n : RowCount) :
    Overlaid s.fb (spriteBit s x y n) (drawSprite s x y n) := by
  have hrows : 0 + n.val ≤ 32 := by omega
  have hdrawn := overlaid_start.after_drawRows (vx := readReg s x) (vy := readReg s y) (fb := s.fb)
    (bytes := fun i => memRead s.mem (s.I.toNat + i)) hrows
  rw [Nat.zero_add, drawnBit_sprite, ← List.range_eq_range'] at hdrawn
  exact hdrawn

/-- The sprite's bits depend on memory, `I` and the coordinates only. -/
theorem spriteBit_congr {s u : State} {x y : Reg} (n : RowCount) (hmem : u.mem = s.mem) (hI : u.I = s.I)
    (hx : readReg u x = readReg s x) (hy : readReg u y = readReg s y) : spriteBit u x y n = spriteBit s x y n := by
  funext row col
  simp only [spriteBit, hmem, hI, hx, hy]

/-! The states after clearing and drawing. -/

theorem redraw_frame (s : State) (fb : Framebuffer) :
    unchangedBut (fun p => p = .drawFlag ∨ ∃ row col, p = .cell row col) s (redraw s fb) := by
  intro p hp
  cases p with
  | drawFlag => exact absurd (.inl rfl) hp
  | cell row col => exact absurd (.inr ⟨row, col, rfl⟩) hp
  | rnd => exact ⟨rfl, rfl⟩
  | _ => exact rfl

/-- The state after a DXYN that completes (R106). -/
def drawn (s : State) (x y : Reg) (n : RowCount) : State :=
  advance (writeVF (redraw s (drawSprite s x y n).1) (drawSprite s x y n).2)

theorem exec_drw_eq_next {s t : State} {x y : Reg} {n : RowCount} :
    exec (.drw x y n) s = .next t ↔ (n.val = 0 ∨ s.I.toNat + n.val ≤ 0x1000) ∧ t = drawn s x y n :=
  checkRange_eq_next ..

theorem cell_drawn (s : State) (x y : Reg) (n : RowCount) (row : Fin 32) (col : Fin 64) :
    cell (drawn s x y n).fb row col = (cell s.fb row col ^^ spriteBit s x y n row col) :=
  (drawSprite_overlaid s x y n).cells row col

theorem readReg_drawn_VF (s : State) (x y : Reg) (n : RowCount) :
    readReg (drawn s x y n) 15 = flagByte (drawSprite s x y n).2 :=
  readReg_writeReg_same _ 15 _

theorem flagByte_eq_one_iff (b : Bool) : flagByte b = 1 ↔ b = true := by
  cases b <;> decide

/-- VF reports the collision (R106). -/
theorem readReg_drawn_VF_eq_one_iff (s : State) (x y : Reg) (n : RowCount) :
    readReg (drawn s x y n) 15 = 1 ↔ ∃ row col, spriteBit s x y n row col = true ∧ cell s.fb row col = true := by
  rw [readReg_drawn_VF, flagByte_eq_one_iff]
  exact (drawSprite_overlaid s x y n).collision

theorem drawn_frame (s : State) (x y : Reg) (n : RowCount) :
    unchangedBut (fun p => p ∈ [.reg 15, .drawFlag, .pc] ∨ ∃ row col, p = .cell row col) s (drawn s x y n) := by
  refine unchangedBut_mono (fun p hp => ?_) (unchangedBut_or (redraw_frame s (drawSprite s x y n).1)
    (jumpTo_frame_after (writeVF_frame _ (drawSprite s x y n).2) (s.pc + 2)))
  obtain (rfl | hcell) | hp := hp
  · exact .inl (by simp)
  · exact .inr hcell
  · exact .inl (((List.sublist_cons_self Piece.drawFlag [.pc]).cons_cons (.reg 15)).subset hp)

end Sys2Proof.Machine
end

section
/-!
PROOFS. The display (spec/44_display.md): 00E0 redraws with a blank framebuffer, DXYN with its sprite overlaid.
-/

namespace Sys2Proof.Machine

/-- Settles O39: the framebuffer is replaced and `drawFlag` set without a look at the screen (D14). -/
theorem clearScreenClearsEveryCell : Obligations.ClearScreenClearsEveryCell := by
  refine fun s => ⟨advance (redraw s clearFb), rfl, cell_clearFb, rfl, rfl, ?_⟩
  refine unchangedBut_mono (fun p hp => ?_)
    (unchangedBut_or (redraw_frame s clearFb) (jumpTo_frame (redraw s clearFb) (s.pc + 2)))
  obtain (rfl | hcell) | hpc := hp
  · exact .inl (by simp)
  · exact .inr hcell
  · exact .inl (List.mem_cons_of_mem _ hpc)

/-- Settles O40: inside memory the sprite is overlaid on the framebuffer, each pixel wrapped (D21), and VF written after
the coordinates were read (D7); else the range check's error (D4, D5). -/
theorem drawXorsTheSprite : Obligations.DrawXorsTheSprite := by
  refine fun s x y n => ⟨fun h => ?_, fun h => ?_⟩
  · refine ⟨drawn s x y n, exec_drw_eq_next.mpr ⟨by omega, rfl⟩, cell_drawn s x y n, ?_, ?_, rfl, rfl,
      drawn_frame s x y n⟩
    · rw [readReg_drawn_VF, flagByte_toNat]
      cases (drawSprite s x y n).2 <;> simp
    · exact (BitVec.toNat_inj (y := 1)).trans (readReg_drawn_VF_eq_one_iff s x y n)
  · exact (checkRange_eq_fault ..).mpr ⟨by omega, rfl⟩

/-- Settles O41: the second sprite has the first one's bits, and exclusive OR with a bit undoes itself; under a set bit
the first draw left a set cell exactly where there was none. -/
theorem drawingTwiceRestoresTheFramebuffer : Obligations.DrawingTwiceRestoresTheFramebuffer := by
  intro s t u v x y n ht hfb hmem hI hx hy hv
  obtain ⟨-, rfl⟩ := exec_drw_eq_next.mp ht
  obtain ⟨-, rfl⟩ := exec_drw_eq_next.mp hv
  have hbits : spriteBit u x y n = spriteBit s x y n := spriteBit_congr n hmem hI hx hy
  have hcell (row : Fin 32) (col : Fin 64) :
      cell u.fb row col = (cell s.fb row col ^^ spriteBit s x y n row col) := by
    rw [hfb, cell_drawn]
  constructor
  · refine framebuffer_ext fun row col => ?_
    rw [cell_drawn, hbits, hcell, Bool.xor_assoc, Bool.xor_self, Bool.xor_false]
  · rw [readReg_drawn_VF_eq_one_iff, hbits]
    refine exists₂_congr fun row col => and_congr_right fun hbit => ?_
    rw [hcell, hbit, Bool.xor_true, Bool.not_eq_true']

end Sys2Proof.Machine
end

section
/-!
SUPPORT. The keypad scan and the timer writes (spec/45_keypad_timers.md, spec/10_state.md R16, R17, R19): what FX0A's
scan finds, the program counter a skip on a key leaves, and the frames of the writes of `dt` and `st`.
-/

namespace Sys2Proof.Machine

/-- The ascending scan finds a key exactly when it is down and none below it is (R113). -/
theorem firstKey_eq_some_iff (s : State) (k : Key) :
    firstKey s = some k ↔ keyDown s k = true ∧ ∀ j < k, keyDown s j = false := by
  rw [firstKey, ← Fin.find?_eq_find?_finRange, Fin.find?_eq_some_iff]

theorem firstKey_eq_none_iff (s : State) : firstKey s = none ↔ ∀ k, keyDown s k = false := by
  rw [firstKey, ← Fin.find?_eq_find?_finRange, Fin.find?_eq_none_iff]

/-- An answered FX0A is a register write (R113). -/
theorem exec_ldVxK_of_some {s : State} {k : Key} (x : Reg) (h : firstKey s = some k) :
    exec (.ldVxK x) s = .next (advance (writeReg s x (BitVec.ofNat 8 k.val))) := by
  rw [exec, execLdVxK, h]

/-- An unanswered FX0A leaves the state as it is (R113). -/
theorem exec_ldVxK_of_none {s : State} (x : Reg) (h : firstKey s = none) : exec (.ldVxK x) s = .next s := by
  rw [exec, execLdVxK, h]

/-- A key number fits a byte. -/
theorem keyByte_toNat (k : Key) : (BitVec.ofNat 8 k.val).toNat = k.val := by
  rw [BitVec.toNat_ofNat]
  omega

/-- The key a register selects is its value modulo 16 (R41, D9). -/
theorem keyDown_keyNumber (s : State) (v : Byte) : keyDown s (keyNumber v) = s.keys[v.toNat % 16] := rfl

theorem skipIf_not_pc (s : State) (c : Bool) :
    (skipIf (!c) s).pc = if c = true then s.pc + 2 else s.pc + 4 := by
  cases c <;> rfl

theorem writeDt_frame (s : State) (v : Byte) : unchangedBut (pieces [.dt]) s (writeDt s v) := by
  intro p hp
  cases p with
  | dt => exact absurd (List.mem_singleton_self _) hp
  | rnd => exact ⟨rfl, rfl⟩
  | _ => exact rfl

theorem writeSt_frame (s : State) (v : Byte) : unchangedBut (pieces [.st]) s (writeSt s v) := by
  intro p hp
  cases p with
  | st => exact absurd (List.mem_singleton_self _) hp
  | rnd => exact ⟨rfl, rfl⟩
  | _ => exact rfl

end Sys2Proof.Machine
end

section
/-!
PROOFS. Keypad and timers (spec/45_keypad_timers.md): a skip on a key, the two answers of the key wait, and the timer
instructions, each one write followed by the advance of `pc`.
-/

namespace Sys2Proof.Machine

/-- Settles O42: both skips test the same key, EXA1 with the outcomes exchanged (D9). -/
theorem keySkipsTestTheKey : Obligations.KeySkipsTestTheKey := by
  refine fun s x => ⟨⟨skipIf (keyDown s (keyNumber (readReg s x))) s, rfl, skipIf_frame s _, ?_⟩,
    ⟨skipIf (!keyDown s (keyNumber (readReg s x))) s, rfl, skipIf_frame s _, ?_⟩⟩
  · rw [skipIf_pc, keyDown_keyNumber]
  · rw [skipIf_not_pc, keyDown_keyNumber]

/-- Settles O43: the scan finds the least pressed key, or nothing when none is pressed (D18). -/
theorem keyWaitTakesTheLeastPressedKey : Obligations.KeyWaitTakesTheLeastPressedKey := by
  refine fun s x => ⟨fun k hk hleast => ?_, fun hnone => ?_⟩
  · have hscan : firstKey s = some k := (firstKey_eq_some_iff s k).mpr ⟨hk, hleast⟩
    refine ⟨_, exec_ldVxK_of_some x hscan, ?_, rfl, result_frame s x _⟩
    rw [readReg_result, keyByte_toNat]
  · exact exec_ldVxK_of_none x ((firstKey_eq_none_iff s).mpr hnone)

/-- Settles O44: the execute phase leaves the state as it is, so the step is its end (log entry 2). -/
theorem unansweredKeyWaitOnlyTicks : Obligations.UnansweredKeyWaitOnlyTicks := by
  intro s x hfetch hnone
  obtain ⟨-, hwait⟩ := keyWaitTakesTheLeastPressedKey s x
  exact ⟨endStep s, (step_eq_next s _).mpr ⟨_, s, hfetch, hwait hnone, rfl⟩, ticked_endStep s⟩

/-- Settles O45: one write of a register or a timer, and the advance of `pc`. -/
theorem timerInstructionsMoveTheTimers : Obligations.TimerInstructionsMoveTheTimers :=
  fun s x =>
    ⟨⟨advance (writeReg s x s.dt), rfl, readReg_result s x s.dt, rfl, result_frame s x s.dt⟩,
      ⟨advance (writeDt s (readReg s x)), rfl, rfl, rfl, jumpTo_frame_after (writeDt_frame s _) (s.pc + 2)⟩,
      ⟨advance (writeSt s (readReg s x)), rfl, rfl, rfl, jumpTo_frame_after (writeSt_frame s _) (s.pc + 2)⟩⟩

end Sys2Proof.Machine
end

section
/-!
PROOFS. The errors of the execute phase (spec/60_exceptions.md R120, R126): an instruction's outcome reports what its
own rule raises. Two instructions raise by the number of entries on the stack, four by the range check, the others
never.
-/

namespace Sys2Proof.Machine

/-- An outcome reports `e`: it is a next state where `e` is none, and else a fault with exactly that error (R67). -/
def Reports (e : Option CoreError) : Host.Outcome State Fault Refusal → Prop
  | .next _ => e = none
  | .fault f => e = some f.error
  | .refused _ => False

theorem Reports.eq_next_iff {e : Option CoreError} {o : Host.Outcome State Fault Refusal} (h : Reports e o) :
    (∃ t, o = .next t) ↔ e = none := by
  cases o with
  | next t => exact iff_of_true ⟨t, rfl⟩ h
  | fault f => exact iff_of_false nofun fun hnone => Option.some_ne_none _ (Eq.trans (Eq.symm h) hnone)
  | refused r => exact h.elim

/-- The range check reports R36's error of its access. -/
theorem checkRange_reports (base n : Nat) (s t : State) : Reports (rangeError base n) (checkRange base n s t) := by
  by_cases h : n = 0 ∨ base + n ≤ 0x1000
  · rw [(checkRange_eq_next base n s t t).mpr ⟨h, rfl⟩]
    exact if_pos (by omega)
  · rw [(checkRange_eq_fault base n s t _).mpr ⟨h, rfl⟩]
    exact if_neg (by omega)

/-- Every instruction reports the error of its own rule in R120's table. -/
theorem exec_reports_ownError (i : Instr) (s : State) : Reports (ownError i s) (exec i s) := by
  cases i with
  | ret =>
    obtain hsp | hsp := Nat.eq_zero_or_pos s.sp.val
    · rw [exec_ret_of_zero hsp]
      exact if_pos (Fin.ext hsp)
    · rw [exec_ret_of_pos hsp]
      exact if_neg fun h => Nat.ne_of_gt hsp (congrArg Fin.val h)
  | call nnn =>
    obtain hsp | hsp := Nat.lt_or_ge s.sp.val 16
    · rw [exec_call_of_lt nnn hsp]
      exact if_neg fun h => Nat.ne_of_lt hsp (congrArg Fin.val h)
    · rw [exec_call_of_ge nnn hsp]
      exact if_pos (Fin.ext (Nat.le_antisymm (Nat.le_of_lt_succ s.sp.isLt) hsp))
  | ldVxK x =>
    cases hkey : firstKey s with
    | none => rw [exec_ldVxK_of_none x hkey]; rfl
    | some k => rw [exec_ldVxK_of_some x hkey]; rfl
  | drw | ldBVx | ldMemVx | ldVxMem => exact checkRange_reports ..
  | _ => rfl

/-- Settles O12: the outcome reports the error of the instruction's rule, and a fault carries the old state. -/
theorem instructionsRaiseExactlyTheirOwnError : Obligations.InstructionsRaiseExactlyTheirOwnError := by
  refine fun i s => ⟨(exec_reports_ownError i s).eq_next_iff, fun f hf => ⟨?_, exec_fault_after hf⟩⟩
  have hreports : Reports (ownError i s) (.fault f) := hf ▸ exec_reports_ownError i s
  exact hreports

end Sys2Proof.Machine
end

section
/-!
PROOFS. Reset and load (spec/70_reset_and_hazards.md R141 to R143): reset sets every member but the host's random input
to a constant, and load stores a ROM over the memory it leaves, or nothing.
-/

namespace Sys2Proof.Machine

/-- The states two resets leave differ in the host's random input only. -/
theorem resetCore_frame (s s' : State) : unchangedBut (pieces [.rnd]) (resetCore s) (resetCore s') := by
  intro p hp
  cases p with
  | rnd => simp at hp
  | _ => exact rfl

/-- Settles O2: a reset keeps the host's random input (log entry 10) and sets every other member to a constant. -/
theorem resetIgnoresThePreviousState : Obligations.ResetIgnoresThePreviousState :=
  fun s s' => ⟨resetCore_frame s s', ⟨rfl, rfl⟩, rfl⟩

/-- Settles O3: a ROM that fits is a run of stores at 0x200 over the memory reset leaves, and sets memory only. -/
theorem loadPlacesTheRom : Obligations.LoadPlacesTheRom := by
  intro s rom hlen
  have hload : applyHostOp (.load rom) s =
      (writeMem (resetCore s) (storeBytes (resetCore s).mem 0x200 rom), none) := loadRom_of_fits s hlen
  rw [hload]
  exact ⟨rfl, memRead_storeBytes_inside _ 0x200 rom, fun a ha => memRead_storeBytes_outside _ 0x200 a rom ha,
    _, rfl⟩

/-- A ROM above ROM_MAX is not copied. -/
theorem loadRom_of_tooLarge {rom : List Byte} (s : State) (h : 3584 < rom.length) :
    loadRom rom s = (resetCore s, some .romTooLarge) :=
  if_neg (mt (romFits_iff rom).mp (Nat.not_le.mpr h))

/-- The word at 0x200 after a reset is 0x0000 (R24). -/
theorem resetCore_fetchedWord (s : State) :
    (0x0000 : Word) = memRead (resetCore s).mem (resetCore s).pc.toNat ++
      memRead (resetCore s).mem ((resetCore s).pc.toNat + 1) := by
  have hhi : memRead [] 0x200 = 0 := by decide
  have hlo : memRead [] 0x201 = 0 := by decide
  exact (congrArg₂ (· ++ ·) hhi hlo).symm

/-- Settles O4: the load ends at the reset, whose program counter addresses the unknown word 0x0000 (D8). -/
theorem loadOfTooLargeRomOnlyResets : Obligations.LoadOfTooLargeRomOnlyResets := by
  intro s rom hlen
  have hload : applyHostOp (.load rom) s = (resetCore s, some .romTooLarge) := loadRom_of_tooLarge s hlen
  obtain ⟨f, hstep, herror, -⟩ := unknownWordFaults (resetCore s) 0x0000
    (show (0x200 : Word).toNat < 0xFFF by decide) (resetCore_fetchedWord s) (by decide)
  rw [hload]
  exact ⟨rfl, f, hstep, herror⟩

end Sys2Proof.Machine
end

section
/-!
PROOFS. What a step reports (spec/60_exceptions.md R120, R129, spec/70_reset_and_hazards.md R148, R154): the error of
fetch and decode, else the instruction's own, else none. None of it reads what the end of a step writes.
-/

namespace Sys2Proof.Machine

/-- An outcome that reports an error, or none, is no refusal. -/
theorem Reports.next_or_fault {e : Option CoreError} {o : Host.Outcome State Fault Refusal} (h : Reports e o) :
    (∃ t, o = .next t) ∨ ∃ f, o = .fault f := by
  cases o with
  | next t => exact .inl ⟨t, rfl⟩
  | fault f => exact .inr ⟨f, rfl⟩
  | refused r => exact h.elim

/-- An outcome that reports an error is a fault with it. -/
theorem Reports.eq_fault {e : CoreError} {o : Host.Outcome State Fault Refusal} (h : Reports (some e) o) :
    ∃ f, o = .fault f ∧ f.error = e := by
  cases o with
  | next t => exact absurd h (Option.some_ne_none e)
  | fault f => exact ⟨f, rfl, (Option.some.inj h).symm⟩
  | refused r => exact h.elim

/-- The end of a step changes nothing about what its outcome reports (R66). -/
theorem finish_reports {e : Option CoreError} {o : Host.Outcome State Fault Refusal} (h : Reports e o) :
    Reports e (finish o) := by
  cases o with
  | next t => exact h
  | fault f => exact Eq.trans h (congrArg some (mapAfter_error f endStep).symm)
  | refused r => exact h

/-- What a step reports: the error of fetch and decode, else what the instruction's own rule raises (R120). -/
def stepError (s : State) : Option CoreError :=
  match fetchDecode s with
  | .error f => some f.error
  | .ok i => ownError i s

theorem stepError_of_ok {s : State} {i : Instr} (h : fetchDecode s = .ok i) : stepError s = ownError i s := by
  rw [stepError, h]

theorem stepError_of_error {s : State} {f : Fault} (h : fetchDecode s = .error f) : stepError s = some f.error := by
  rw [stepError, h]

theorem step_reports_stepError (s : State) : Reports (stepError s) (step s) := by
  refine finish_reports ?_
  cases hf : fetchDecode s with
  | error f =>
    rw [fetchDecodeExecute_of_error hf, stepError_of_error hf]
    exact rfl
  | ok i =>
    rw [fetchDecodeExecute_of_ok hf, stepError_of_ok hf]
    exact exec_reports_ownError i s

/-- The end of a step writes nothing that fetch and decode read (R61, R62). -/
theorem fetchDecode_endStep_eq_ok (s : State) (i : Instr) :
    fetchDecode (endStep s) = .ok i ↔ fetchDecode s = .ok i := by
  rw [fetchDecode_eq_ok, fetchDecode_eq_ok, endStep_pc, endStep_mem]

theorem fetchDecode_endStep_error {s : State} {f : Fault} (h : fetchDecode s = .error f) :
    fetchDecode (endStep s) = .error (f.mapAfter endStep) := by
  refine (fetchDecode_eq_error _ _).mpr ?_
  rcases (fetchDecode_eq_error s f).mp h with ⟨hpc, rfl⟩ | ⟨hpc, hw, rfl⟩
  · exact .inl ⟨hpc, rfl⟩
  · exact .inr ⟨hpc, hw, rfl⟩

/-- No instruction's error depends on what the end of a step writes: the stack pointer and `I` decide it. -/
theorem ownError_endStep (i : Instr) (s : State) : ownError i (endStep s) = ownError i s := by
  cases i <;> rfl

theorem stepError_endStep (s : State) : stepError (endStep s) = stepError s := by
  cases hf : fetchDecode s with
  | error f => rw [stepError_of_error hf, stepError_of_error (fetchDecode_endStep_error hf), mapAfter_error]
  | ok i =>
    rw [stepError_of_ok hf, stepError_of_ok ((fetchDecode_endStep_eq_ok s i).mpr hf), ownError_endStep]

/-- Settles O11: a step reports its error or none, and so does every instruction. -/
theorem everyStepIsOkOrAnError : Obligations.EveryStepIsOkOrAnError :=
  ⟨fun s => (step_reports_stepError s).next_or_fault, fun i s => (exec_reports_ownError i s).next_or_fault⟩

/-- Settles O14: the fault leaves the old state with its end of the step run, which changes no error (D5, D6); the
core keeps no record of the first error (D20). -/
theorem errorsRepeat : Obligations.ErrorsRepeat := by
  intro s f hf
  have herror : Reports (stepError s) (.fault f) := hf ▸ step_reports_stepError s
  have hrepeat : stepError (endStep s) = some f.error := (stepError_endStep s).trans herror
  rw [step_fault_after hf]
  exact Reports.eq_fault (hrepeat ▸ step_reports_stepError (endStep s))

end Sys2Proof.Machine
end

section
/-!
PROOFS. Timers within a step, and the end of a run (spec/70_reset_and_hazards.md R146, R154): the step of one fetched
instruction is the end of the step over what the instruction leaves.
-/

namespace Sys2Proof.Machine

/-- A step of an instruction that completes is the end of the step over the state it leaves (R60). -/
theorem step_of_fetched {s u : State} {i : Instr} (hi : fetchDecode s = .ok i) (hu : exec i s = .next u) :
    step s = .next (endStep u) :=
  (step_eq_next s _).mpr ⟨i, u, hi, hu, rfl⟩

/-- The end of a step sets `beepFlag` where the sound timer was 1 (R66). -/
theorem endStep_beepFlag_iff (s : State) :
    (endStep s).beepFlag = true ↔ s.beepFlag = true ∨ s.st.toNat = 1 := by
  rw [endStep_beepFlag, Bool.or_eq_true, beq_iff_eq, ← BitVec.toNat_inj]
  exact Iff.rfl

/-- Settles O46: the timer phase runs over the timers as the instruction left them, and FX07 read `dt` before it. -/
theorem timersTickInTheStepThatUsesThem : Obligations.TimersTickInTheStepThatUsesThem := by
  refine fun s x => ⟨fun hi => ?_, fun hi => ?_, fun hi => ?_⟩
  · exact ⟨_, step_of_fetched hi rfl, readReg_result s x s.dt, tick_toNat s.dt⟩
  · exact ⟨_, step_of_fetched hi rfl, tick_toNat (readReg s x)⟩
  · exact ⟨_, step_of_fetched hi rfl, tick_toNat (readReg s x),
      endStep_beepFlag_iff (advance (writeSt s (readReg s x)))⟩

/-- What it is for a run to have ended: the fetched instruction is a jump to its own address (R154, D22). -/
theorem atSelfJump_iff (s : State) :
    atSelfJump s = true ↔ ∃ nnn, fetchDecode s = .ok (.jp nnn) ∧ addrOperand nnn = s.pc := by
  unfold atSelfJump
  split
  · rename_i nnn hi
    simp [hi]
  · rename_i hne
    exact iff_of_false Bool.false_ne_true fun ⟨nnn, hi, _⟩ => hne nnn hi

/-- Settles O55: the jump leaves the state as it is, so the step is its end, which writes neither `pc` nor memory
(D22, log entry 2). -/
theorem selfJumpOnlyTicks : Obligations.SelfJumpOnlyTicks := by
  intro s hs
  obtain ⟨nnn, hi, htarget⟩ := (atSelfJump_iff s).mp hs
  have hjump : exec (.jp nnn) s = .next s := congrArg (fun pc => Host.Outcome.next (jumpTo s pc)) htarget
  exact ⟨endStep s, step_of_fetched hi hjump, ticked_endStep s,
    (atSelfJump_iff _).mpr ⟨nnn, (fetchDecode_endStep_eq_ok s _).mpr hi, htarget⟩⟩

end Sys2Proof.Machine
end
